-- ==== Sys2Proof/Word.lean ====
section
/-! DEFINITION. The engine's words: bytes, nibbles, line levels, and one value for each of the controller's eight
data lines (R12, R14). -/

namespace Sys2Proof

/-- A byte, 0..255 (R12). -/
abbrev Byte := BitVec 8

/-- A nibble, 0..15 (R12). -/
abbrev Nibble := BitVec 4

/-- The level of a line (R14): High is logic 1, Low is logic 0. -/
inductive Level where
  | low
  | high
  deriving DecidableEq, Repr, Inhabited

/-- One value for each of the eight data lines DB0..DB7 (R18, R22). -/
structure Data8 (α : Type) where
  d0 : α
  d1 : α
  d2 : α
  d3 : α
  d4 : α
  d5 : α
  d6 : α
  d7 : α
  deriving DecidableEq, Repr

end Sys2Proof
end

