-- ==== Sys2Proof/Config.lean ====
section
/-! DEFINITION. What the spec leaves open: the backend's answers (R14, R323, D36, U8, U11). The engine's other
parameters are fixed per instance by `construct` and per call by `begin` (R10), so they are in State; its fixed
constants (R11) are in Machine/Ops.lean. -/

namespace Sys2Proof

/-- The line backend's answer to one LineRequest or one LineWrite (R14, R323): ok, or fail. After a failed write
the line's level is open, Low or High (R33, U8), so a failing answer says at which level it left the line. The level
means nothing for a failed LineRequest. -/
inductive Answer where
  | ok
  | fail (left : Level)
  deriving DecidableEq, Repr, Inhabited

/-- FREE VALUE (log 5): the backend's n-th answer that no input gave in advance, "a draw, ok or fail, at every call,
under no law" (D36). No body: nothing in Lean can say what it is. -/
opaque Config.backendAnswer : Nat → Answer

end Sys2Proof
end

