-- ==== Sys2Proof/Syntax.lean ====
section
/-! DEFINITION. The instructions: one constructor of `Instr` for each row of spec/opcode_table.json, nine bus words
(format bus9), two negotiation nibbles (format nib4) and twenty-two requests (R97). -/

namespace Sys2Proof

/-- The backend's name of a line (R22). -/
abbrev LineId := Nat

/-- A line by its role (R17, R18); traces name lines by role. -/
inductive Line where
  | rs
  | rw
  | e
  | db (k : Fin 8)
  deriving DecidableEq, Repr

/-- The data-bus width (R23). -/
inductive BusWidth where
  | w4
  | w8
  deriving DecidableEq, Repr

/-- The line count, 1 or 2 (R25). -/
inductive LineCount where
  | one
  | two
  deriving DecidableEq, Repr

/-- The character matrix (R26). -/
inductive Matrix where
  | m5x8
  | m5x10
  deriving DecidableEq, Repr

/-- What CursorOrDisplayShift moves (R125). -/
inductive ShiftTarget where
  | cursor
  | display
  deriving DecidableEq, Repr

/-- Which way CursorOrDisplayShift moves it (R125). -/
inductive Direction where
  | left
  | right
  deriving DecidableEq, Repr

/-- The pin-binding descriptor of `construct`, and the pin binding of the engine (R22, R340). -/
structure Binding where
  rs : Option LineId
  rw : Option LineId
  e : Option LineId
  db : Data8 (Option LineId)
  deriving DecidableEq, Repr

/-- The instruction set: the rows of spec/opcode_table.json in the table's order. The fields `x` are the bits the
table marks x: the encoder emits them 0, `command` may send any (R93, R96). -/
inductive Instr where
  /-- CLEAR_DISPLAY, R121 -/
  | clearDisplay
  /-- RETURN_HOME, R122 -/
  | returnHome (x : BitVec 1)
  /-- ENTRY_MODE_SET, R123 -/
  | entryModeSet (ltr shift : Bool)
  /-- DISPLAY_CONTROL, R124 -/
  | displayControl (display cursor blink : Bool)
  /-- CURSOR_OR_DISPLAY_SHIFT, R125 -/
  | cursorOrDisplayShift (target : ShiftTarget) (dir : Direction) (x : BitVec 2)
  /-- FUNCTION_SET, R126 -/
  | functionSet (width : BusWidth) (lines : LineCount) (matrix : Matrix) (x : BitVec 2)
  /-- SET_CGRAM_ADDRESS, R127 -/
  | setCgramAddress (a : BitVec 6)
  /-- SET_DDRAM_ADDRESS, R128 -/
  | setDdramAddress (a : BitVec 7)
  /-- WRITE_DATA, R129 -/
  | writeData (d : Byte)
  /-- INIT_NIBBLE_0011, R130 -/
  | initNibble0011
  /-- INIT_NIBBLE_0010, R130 -/
  | initNibble0010
  /-- construct, R340 -/
  | construct (binding : Binding)
  /-- drop, R343 -/
  | drop
  /-- begin, R200 -/
  | beginInit (columns lines : Nat) (matrix : Matrix)
  /-- command, R165 -/
  | command (b : Byte)
  /-- write, R166 -/
  | write (b : Byte)
  /-- set_cursor, R241 -/
  | setCursor (col row : Nat)
  /-- print, R242 -/
  | print (text : List Byte)
  /-- clear, R243 -/
  | clear
  /-- home, R244 -/
  | home
  /-- display, R245 -/
  | display
  /-- no_display, R246 -/
  | noDisplay
  /-- cursor, R247 -/
  | cursor
  /-- no_cursor, R248 -/
  | noCursor
  /-- blink, R249 -/
  | blink
  /-- no_blink, R250 -/
  | noBlink
  /-- left_to_right, R251 -/
  | leftToRight
  /-- right_to_left, R252 -/
  | rightToLeft
  /-- autoscroll, R253 -/
  | autoscroll
  /-- no_autoscroll, R254 -/
  | noAutoscroll
  /-- scroll_display_left, R255 -/
  | scrollDisplayLeft
  /-- scroll_display_right, R256 -/
  | scrollDisplayRight
  /-- create_char, R257 -/
  | createChar (slot : Nat) (bitmap : List Byte)
  deriving DecidableEq, Repr

end Sys2Proof
end

