-- ==== Sys2Proof/Decode.lean ====
section
/-! DEFINITION. The decoder of bus words (R90 to R96), total on any bytes, and the encoder. Requests are calls and have
no bit encoding (R97), so the encoder answers none for them. -/

namespace Sys2Proof

/-- Why the decoder refuses. -/
inductive DecodeError where
  /-- RS = 0, byte 0x00: "no instruction in the source's list" (R96). -/
  | noInstruction
  /-- A nibble other than 0011 and 0010: no row of the table (R130). -/
  | notNegotiationNibble
  /-- A bit above the word's 9 bits, or above the nibble's 4, is 1 (log 12). -/
  | spareBits
  /-- Neither one byte (a nibble) nor two (a bus word) (log 12). -/
  | badLength
  deriving DecidableEq, Repr

/-- A word as it stands in the table: 9 bits `RS:D7..D0` (R90), or a negotiation nibble DB7..DB4 (R130). -/
inductive BusWord where
  | word (w : BitVec 9)
  | nibble (n : Nibble)
  deriving DecidableEq, Repr

/-! ### Fields (R93, R94) -/

/-- L: 1 = W8. -/
def widthOfBit (l : Bool) : BusWidth := if l then .w8 else .w4
/-- N: 1 = 2 lines. -/
def linesOfBit (n : Bool) : LineCount := if n then .two else .one
/-- F: 1 = 5×10. -/
def matrixOfBit (f : Bool) : Matrix := if f then .m5x10 else .m5x8
/-- T: 1 = display. -/
def targetOfBit (t : Bool) : ShiftTarget := if t then .display else .cursor
/-- R: 1 = right. -/
def directionOfBit (r : Bool) : Direction := if r then .right else .left

/-- L: 1 = W8. -/
def BusWidth.bit (w : BusWidth) : Bool := w == .w8
/-- N: 1 = 2 lines. -/
def LineCount.bit (n : LineCount) : Bool := n == .two
/-- F: 1 = 5×10. -/
def Matrix.bit (m : Matrix) : Bool := m == .m5x10
/-- T: 1 = display. -/
def ShiftTarget.bit (t : ShiftTarget) : Bool := t == .display
/-- R: 1 = right. -/
def Direction.bit (d : Direction) : Bool := d == .right

/-! ### Decoding -/

/-- R95: with RS = 0 the instruction is the one whose opcode is the highest set bit; with RS = 1 the byte is data
(R90, R129). -/
def decodeWord (w : BitVec 9) : Except DecodeError Instr :=
  if w.getLsbD 8 then .ok (.writeData (w.extractLsb' 0 8))
  else if w.getLsbD 7 then .ok (.setDdramAddress (w.extractLsb' 0 7))
  else if w.getLsbD 6 then .ok (.setCgramAddress (w.extractLsb' 0 6))
  else if w.getLsbD 5 then
    .ok (.functionSet (widthOfBit (w.getLsbD 4)) (linesOfBit (w.getLsbD 3)) (matrixOfBit (w.getLsbD 2))
      (w.extractLsb' 0 2))
  else if w.getLsbD 4 then
    .ok (.cursorOrDisplayShift (targetOfBit (w.getLsbD 3)) (directionOfBit (w.getLsbD 2)) (w.extractLsb' 0 2))
  else if w.getLsbD 3 then .ok (.displayControl (w.getLsbD 2) (w.getLsbD 1) (w.getLsbD 0))
  else if w.getLsbD 2 then .ok (.entryModeSet (w.getLsbD 1) (w.getLsbD 0))
  else if w.getLsbD 1 then .ok (.returnHome (w.extractLsb' 0 1))
  else if w.getLsbD 0 then .ok .clearDisplay
  else .error .noInstruction

/-- R130: the two negotiation nibbles. -/
def decodeNibble (n : Nibble) : Except DecodeError Instr :=
  if n = 0b0011#4 then .ok .initNibble0011
  else if n = 0b0010#4 then .ok .initNibble0010
  else .error .notNegotiationNibble

/-- The decoder of a table word. -/
def decode : BusWord → Except DecodeError Instr
  | .word w => decodeWord w
  | .nibble n => decodeNibble n

/-- A table word from bytes, least significant first: a nibble in one byte, a bus word in two (log 12). -/
def busWordOfBytes : List Byte → Except DecodeError BusWord
  | [b] => if b.extractLsb' 4 4 = 0#4 then .ok (.nibble (b.extractLsb' 0 4)) else .error .spareBits
  | [lo, hi] => if hi.extractLsb' 1 7 = 0#7 then .ok (.word (hi.extractLsb' 0 1 ++ lo)) else .error .spareBits
  | [] => .error .badLength
  | _ :: _ :: _ :: _ => .error .badLength

/-- The decoder on any bytes. -/
def decodeBytes (bs : List Byte) : Except DecodeError Instr :=
  match busWordOfBytes bs with
  | .ok w => decode w
  | .error r => .error r

/-! ### Encoding: the patterns of R93 and R130, RS bit first -/

/-- The word of a bus instruction; none for a request (R97). -/
def encode : Instr → Option BusWord
  | .clearDisplay => some (.word 0b000000001#9)
  | .returnHome x => some (.word (0b00000001#8 ++ x))
  | .entryModeSet ltr shift => some (.word (0b0000001#7 ++ BitVec.ofBool ltr ++ BitVec.ofBool shift))
  | .displayControl d c b =>
    some (.word (0b000001#6 ++ BitVec.ofBool d ++ BitVec.ofBool c ++ BitVec.ofBool b))
  | .cursorOrDisplayShift t r x => some (.word (0b00001#5 ++ BitVec.ofBool t.bit ++ BitVec.ofBool r.bit ++ x))
  | .functionSet l n f x =>
    some (.word (0b0001#4 ++ BitVec.ofBool l.bit ++ BitVec.ofBool n.bit ++ BitVec.ofBool f.bit ++ x))
  | .setCgramAddress a => some (.word (0b001#3 ++ a))
  | .setDdramAddress a => some (.word (0b01#2 ++ a))
  | .writeData d => some (.word (0b1#1 ++ d))
  | .initNibble0011 => some (.nibble 0b0011#4)
  | .initNibble0010 => some (.nibble 0b0010#4)
  | .construct _ | .drop | .beginInit _ _ _ | .command _ | .write _ | .setCursor _ _ | .print _ | .clear | .home
  | .display | .noDisplay | .cursor | .noCursor | .blink | .noBlink | .leftToRight | .rightToLeft | .autoscroll
  | .noAutoscroll | .scrollDisplayLeft | .scrollDisplayRight | .createChar _ _ => none

/-- The bytes of a table word, as `busWordOfBytes` reads them (log 12). -/
def BusWord.bytes : BusWord → List Byte
  | .word w => [w.extractLsb' 0 8, (w.extractLsb' 8 1).setWidth 8]
  | .nibble n => [n.setWidth 8]

/-- The `n` whole bytes of the number `w`, least significant first. -/
def bytesOfNat (n w : Nat) : List Byte :=
  (List.range n).map fun k => BitVec.ofNat 8 (w >>> (8 * k))

/-- The bytes of an opcode-table row's `nbits` bits `w` (9 bits take two bytes, 4 bits one). -/
def tableBytes (nbits w : Nat) : List Byte := bytesOfNat ((nbits + 7) / 8) w

/-- What the decoder reads from an opcode-table word. -/
def decodeTableWord (nbits w : Nat) : Option Instr :=
  match decodeBytes (tableBytes nbits w) with
  | .ok i => some i
  | .error _ => none

end Sys2Proof
end

