-- ==== Sys2Proof/Machine/State.lean ====
section
/-! DEFINITION. The machine's state: every field of 10_state.md, the lines other instances own, the inputs a step
reads and the observation a run leaves (R15). Plain data. -/

namespace Sys2Proof.Machine

/-- The sequencer phase (R30). -/
inductive Phase where
  | poweredUnknown
  | forcedIdle
  | busWidthNegotiated
  | functionConfigured
  | displayOnCleared
  | ready
  | faulted
  deriving DecidableEq, Repr

/-- The row-offset table: exactly 4 entries, natural numbers (R32). -/
structure RowOffsets where
  r0 : Nat
  r1 : Nat
  r2 : Nat
  r3 : Nat
  deriving DecidableEq, Repr

/-- The bus shadow: the level last driven on each line (R33). The entry of a line that is not bound means nothing
(log 17). -/
structure Levels where
  rs : Level
  rw : Level
  e : Level
  db : Data8 Level
  deriving DecidableEq, Repr

/-- One event of the trace (R14, R99). -/
inductive Event where
  /-- `Q(l)`: line l requested at Low and obtained. -/
  | q (l : Line)
  /-- `Q!(l)`: the backend refused line l. -/
  | qBang (l : Line)
  /-- `X(l)`: line l released. -/
  | x (l : Line)
  /-- `W(l, v)`: line l driven to v. -/
  | w (l : Line) (v : Level)
  /-- `W!(l, v)`: the backend refused to drive line l to v. -/
  | wBang (l : Line) (v : Level)
  /-- `S(d)`: slept at least d µs. -/
  | s (d : Nat)
  deriving DecidableEq, Repr

/-- What LineBindingError records: "the line id (or descriptor field) at fault" (R300, R341). -/
inductive BindingFault where
  | rsMissing
  | eMissing
  | dbMissing (k : Fin 8)
  /-- Of the field `db[0..3]`: partly bound. -/
  | partialLowNibble
  /-- The line id that occurs twice (R341, check 5). -/
  | duplicateLineId (id : LineId)
  /-- The backend refused the LineRequest of line l (R342). -/
  | lineRefused (l : Line)
  deriving DecidableEq, Repr

/-- The errors a request can return, with the values R300 records. -/
inductive Error where
  /-- Code 1. -/
  | lineBinding (cause : BindingFault)
  /-- Code 2: the line, the level, the index of the refused event within the request. -/
  | lineWrite (l : Line) (v : Level) (index : Nat)
  /-- Code 16: the request and the phase. -/
  | notReady (request : Instr) (phase : Phase)
  /-- Code 17: the request. -/
  | dropped (request : Instr)
  deriving DecidableEq, Repr

/-- What a request returns: Ok or an error (R97, D34). -/
inductive Result where
  | ok
  | err (e : Error)
  deriving DecidableEq, Repr

/-- What the caller offers on the request port: a call (R97), or a bus word as bytes (log 12, log 19). -/
inductive Offer where
  | call (i : Instr)
  | word (bytes : List Byte)
  deriving DecidableEq, Repr

/-- Why a step stops with a fault. -/
inductive Fault where
  /-- Raised by `set_cursor` when `line_count` or `row_offsets` is unset in phase Ready. "A rule that would read an
  unset field is never reached" (10_state.md, D25): no state of the invariant raises it. Safe: the model stops. -/
  | unsetField
  deriving DecidableEq, Repr

/-- Why a step has no meaning. -/
inductive Refusal where
  /-- Raised by the dispatch of an instruction that has no meaning yet (none is left). Safe: the model stops. -/
  | notModelled (mnemonic : String)
  /-- Raised by `create_char` with a bitmap that is not 8 bytes, and by a step whose offered call is a table word: "a
  call outside this table is refused by the model" (R97). Safe: the model stops. -/
  | malformedCall
  /-- Raised by the two nibble words on a W8 engine that is alive and not Faulted: NIB is "W4 only" (R162). Safe: the model
  stops. -/
  | nibbleOnByteBus
  /-- Raised by the two nibble words on a W4 engine that is alive and not Faulted, in another phase than ForcedIdle or with RS
  not Low: a nibble is sent with "RS held Low" and "only from" R203 (R130). Safe: the model stops. -/
  | nibbleOutsideNegotiation
  /-- Raised by a step whose offered word the decoder refuses (R96, R97). Safe: the model stops. -/
  | undecodable (why : DecodeError)
  deriving DecidableEq, Repr

/-- The state of the machine. -/
structure State where
  /-- R22 -/
  pins : Binding
  /-- R23 -/
  busWidth : BusWidth
  /-- R24 -/
  hasRw : Bool
  /-- R25; none is the spec's "unset" -/
  lineCount : Option LineCount
  /-- R26; none is the spec's "unset" -/
  matrix : Option Matrix
  /-- R28 -/
  displayOn : Bool
  /-- R28 -/
  cursorOn : Bool
  /-- R28 -/
  blinkOn : Bool
  /-- R29 -/
  entryLtr : Bool
  /-- R29 -/
  entryShift : Bool
  /-- R30 -/
  phase : Phase
  /-- R31 -/
  alive : Bool
  /-- R32; none is the spec's "unset" -/
  rowOffsets : Option RowOffsets
  /-- R33 -/
  levels : Levels
  /-- R21: the index of the next event of the request in progress; 0 between requests (log 11) -/
  pos : Nat
  /-- Lines owned by other instances, which the backend refuses (R342, D32; log 6) -/
  owned : List LineId
  /-- INPUT: what the caller will offer, oldest first (R320; log 19) -/
  port : List Offer
  /-- INPUT: the backend's next answers, oldest first (D36; log 5) -/
  answers : List Answer
  /-- How many free answers have been drawn past the end of `answers` (log 5) -/
  draws : Nat
  /-- OBSERVATION: the event trace, oldest first (R15; log 11) -/
  trace : List Event
  /-- OBSERVATION: what each request returned, oldest first (R15; log 11) -/
  returns : List Result
  deriving DecidableEq, Repr

/-- The machine before any request (log 1): no engine exists until `construct`, the engine's reset (R340). Every field
R344 gives a value that does not come from the descriptor has it already, `alive` excepted (R31). -/
def State.reset : State where
  pins := { rs := none, rw := none, e := none, db := ⟨none, none, none, none, none, none, none, none⟩ }
  busWidth := .w4
  hasRw := false
  lineCount := none
  matrix := none
  displayOn := true
  cursorOn := false
  blinkOn := false
  entryLtr := true
  entryShift := false
  phase := .poweredUnknown
  alive := false
  rowOffsets := none
  levels := { rs := .low, rw := .low, e := .low, db := ⟨.low, .low, .low, .low, .low, .low, .low, .low⟩ }
  pos := 0
  owned := []
  port := []
  answers := []
  draws := 0
  trace := []
  returns := []

end Sys2Proof.Machine
end

