-- ==== Sys2Proof/Machine/Operands.lean ====
section
/-! DEFINITION. Operand forms: reading and writing one of the eight data lines, the levels a byte or a nibble puts on
them (R63), the encoder functions whose operand is an argument (R121, R122, R125, R127 to R130), the clamped row of
`set_cursor` (R241) and the pin-binding descriptor (R22, R341). -/

namespace Sys2Proof

/-! ### The eight data lines -/

/-- The entry of data line `k`. -/
def Data8.get {α : Type} (d : Data8 α) (k : Fin 8) : α :=
  match k with
  | 0 => d.d0
  | 1 => d.d1
  | 2 => d.d2
  | 3 => d.d3
  | 4 => d.d4
  | 5 => d.d5
  | 6 => d.d6
  | 7 => d.d7

/-- `d` with the entry of data line `k` replaced. -/
def Data8.set {α : Type} (d : Data8 α) (k : Fin 8) (a : α) : Data8 α :=
  match k with
  | 0 => { d with d0 := a }
  | 1 => { d with d1 := a }
  | 2 => { d with d2 := a }
  | 3 => { d with d3 := a }
  | 4 => { d with d4 := a }
  | 5 => { d with d5 := a }
  | 6 => { d with d6 := a }
  | 7 => { d with d7 := a }

/-- `lvl(bit)`: High if the bit is 1, Low if it is 0 (R14). -/
def lvl (bit : Bool) : Level := if bit then .high else .low

/-- The bit a level stands for: High is logic 1 (R14). -/
def Level.bit (v : Level) : Bool := v == .high

/-- `b >> 4`, the high nibble (R163). -/
def highNibble (b : Byte) : Nibble := b.extractLsb' 4 4

/-- `b & 0x0F`, the low nibble (R163). -/
def lowNibble (b : Byte) : Nibble := b.extractLsb' 0 4

end Sys2Proof

namespace Sys2Proof.Machine

/-- The shadow entry of line `l` (R33). -/
def Levels.get (v : Levels) : Line → Level
  | .rs => v.rs
  | .rw => v.rw
  | .e => v.e
  | .db k => v.db.get k

/-- The shadow with the entry of line `l` replaced (R33). -/
def Levels.set (v : Levels) (l : Line) (a : Level) : Levels :=
  match l with
  | .rs => { v with rs := a }
  | .rw => { v with rw := a }
  | .e => { v with e := a }
  | .db k => { v with db := v.db.set k a }

/-- Every line Low, as construction requests them (R340). -/
def Levels.allLow : Levels :=
  { rs := .low, rw := .low, e := .low, db := ⟨.low, .low, .low, .low, .low, .low, .low, .low⟩ }

/-! ### Encoder functions of an argument -/

/-- `CLR()` (R121). -/
def clrByte : Byte := 0x01#8

/-- `HOME()` (R122). -/
def homeByte : Byte := 0x02#8

/-- `SH(target, dir)` (R125). -/
def shByte (target : ShiftTarget) (dir : Direction) : Byte :=
  0x10#8 ||| ((BitVec.ofBool target.bit).setWidth 8 <<< 3) ||| ((BitVec.ofBool dir.bit).setWidth 8 <<< 2)

/-- `CG(slot)` (R127): `0x40 | ((slot & 0x7) << 3)`. -/
def cgByte (slot : Nat) : Byte := 0x40#8 ||| (BitVec.ofNat 8 (slot % 8) <<< 3)

/-- `DD(a)` (R128): `0x80 | (a mod 128)`. -/
def ddByte (a : Nat) : Byte := 0x80#8 ||| BitVec.ofNat 8 (a % 128)

/-- `NIB_8` (R130). -/
def nib8 : Nibble := 0b0011#4

/-- `NIB_4` (R130). -/
def nib4 : Nibble := 0b0010#4

/-- The byte a bus word with RS = 0 carries when its bits are those of `i` (R93): the low 8 bits of its encoding. -/
def wordByte (i : Instr) : Byte :=
  match encode i with
  | some (.word w) => w.extractLsb' 0 8
  | some (.nibble _) => 0#8
  | none => 0#8

/-! ### set_cursor (R241) -/

/-- The line count as a number (R25). -/
def linesNat : LineCount → Nat
  | .one => 1
  | .two => 2

/-- Entry `r` of the row-offset table (R32). -/
def RowOffsets.get (t : RowOffsets) (r : Fin 4) : Nat :=
  match r with
  | 0 => t.r0
  | 1 => t.r1
  | 2 => t.r2
  | 3 => t.r3

/-- The table `begin` writes: `[0x00, 0x40, columns, 0x40 + columns]` (R32, R201). -/
def RowOffsets.ofColumns (columns : Nat) : RowOffsets :=
  { r0 := 0x00, r1 := 0x40, r2 := columns, r3 := 0x40 + columns }

/-- `min(row, 4 - 1, line_count - 1)` (R241). -/
def clampRow (row : Nat) (lines : LineCount) : Nat := min (min row (4 - 1)) (linesNat lines - 1)

/-- The clamped row as an index of the table (R241). -/
def clampIndex (row : Nat) (lines : LineCount) : Fin 4 :=
  ⟨clampRow row lines, by unfold clampRow; omega⟩

/-- `row_offsets[r] + col`, with r the clamped row (R241); none where `line_count` or `row_offsets` is unset. -/
def State.cursorAddress (s : State) (col row : Nat) : Option Nat :=
  match s.lineCount, s.rowOffsets with
  | some n, some t => some (t.get (clampIndex row n) + col)
  | some _, none => none
  | none, _ => none

/-! ### begin (R201) -/

/-- `2 if lines > 1 else 1` (R201). -/
def linesOfRequest (lines : Nat) : LineCount := if lines > 1 then .two else .one

/-- `M5x10 if (character_matrix = M5x10 and line_count = 1) else M5x8` (R201). -/
def matrixOfRequest (m : Matrix) (n : LineCount) : Matrix :=
  if m = .m5x10 ∧ n = .one then .m5x10 else .m5x8

/-! ### The pin-binding descriptor (R22, R340, R341) -/

/-- The lines bound among the pairs of a role and an optional id, in the order given. -/
def boundOf : List (Line × Option LineId) → List (Line × LineId)
  | [] => []
  | (l, some id) :: rest => (l, id) :: boundOf rest
  | (_, none) :: rest => boundOf rest

/-- The bound lines in request order: RS, RW, E, DB0..DB7 ascending, the present ones (R340). -/
def bindingLines (d : Binding) : List (Line × LineId) :=
  boundOf [(.rs, d.rs), (.rw, d.rw), (.e, d.e), (.db 0, d.db.get 0), (.db 1, d.db.get 1), (.db 2, d.db.get 2),
    (.db 3, d.db.get 3), (.db 4, d.db.get 4), (.db 5, d.db.get 5), (.db 6, d.db.get 6), (.db 7, d.db.get 7)]

/-- The line ids of the bound lines. -/
def bindingIds (d : Binding) : List LineId := (bindingLines d).map Prod.snd

/-- The first line id that occurs again later in the list, if one does (R341, check 5; log 16). -/
def firstRepeated : List LineId → Option LineId
  | [] => none
  | id :: rest => if id ∈ rest then some id else firstRepeated rest

/-- DB0..DB3 all present (R23). -/
def lowNibbleBound (d : Binding) : Bool :=
  (d.db.get 0).isSome && (d.db.get 1).isSome && (d.db.get 2).isSome && (d.db.get 3).isSome

/-- DB0..DB3 all absent (R23). -/
def lowNibbleAbsent (d : Binding) : Bool :=
  (d.db.get 0).isNone && (d.db.get 1).isNone && (d.db.get 2).isNone && (d.db.get 3).isNone

/-- W8 if DB0..DB3 are all present, else W4 (R23, R340). -/
def bindingWidth (d : Binding) : BusWidth := if lowNibbleBound d then .w8 else .w4

/-- The legality check of `construct`, in the order of R341: the first failure, or none. Which of several missing
lines of DB4..DB7 is named: the lowest (log 16). -/
def bindingFault (d : Binding) : Option BindingFault :=
  if d.rs.isNone then some .rsMissing
  else if d.e.isNone then some .eMissing
  else if (d.db.get 4).isNone then some (.dbMissing 4)
  else if (d.db.get 5).isNone then some (.dbMissing 5)
  else if (d.db.get 6).isNone then some (.dbMissing 6)
  else if (d.db.get 7).isNone then some (.dbMissing 7)
  else if !(lowNibbleBound d || lowNibbleAbsent d) then some .partialLowNibble
  else (firstRepeated (bindingIds d)).map .duplicateLineId

end Sys2Proof.Machine
end

