-- ==== Sys2Proof/Machine/Flags.lean ====
section
/-! DEFINITION. The flags of the state and the instruction bytes computed from them: EM, DC and FS of the Command
Encoder (R123, R124, R126). Pure: no encoder function writes state, emits an event or raises (R120). -/

namespace Sys2Proof.Machine

/-- A 1-bit field as a byte. -/
def flagByte (b : Bool) : Byte := (BitVec.ofBool b).setWidth 8

/-- EntryModeSet of two flags (R123): `0x04 | (ltr << 1) | (shift << 0)`. -/
def emByte (ltr shift : Bool) : Byte := 0x04#8 ||| (flagByte ltr <<< 1) ||| (flagByte shift <<< 0)

/-- DisplayControl of three flags (R124): `0x08 | (display << 2) | (cursor << 1) | (blink << 0)`. -/
def dcByte (display cursor blink : Bool) : Byte :=
  0x08#8 ||| (flagByte display <<< 2) ||| (flagByte cursor <<< 1) ||| (flagByte blink <<< 0)

/-- FunctionSet (R126): `0x20 | (L << 4) | (N << 3) | (F << 2)`. -/
def fsByte (l n f : Bool) : Byte :=
  0x20#8 ||| (flagByte l <<< 4) ||| (flagByte n <<< 3) ||| (flagByte f <<< 2)

/-- `EM(st)` (R123). -/
def State.em (s : State) : Byte := emByte s.entryLtr s.entryShift

/-- `DC(st)` (R124). -/
def State.dc (s : State) : Byte := dcByte s.displayOn s.cursorOn s.blinkOn

/-- `FS(st)` (R126): each bit is 1 exactly when the field has the value R126 names. -/
def State.fs (s : State) : Byte :=
  fsByte (s.busWidth == .w8) (s.lineCount == some .two) (s.matrix == some .m5x10)

/-! ### Flag writes (R245 to R254) -/

/-- `st.display_on <- v`. -/
def State.setDisplay (s : State) (v : Bool) : State := { s with displayOn := v }
/-- `st.cursor_on <- v`. -/
def State.setCursorOn (s : State) (v : Bool) : State := { s with cursorOn := v }
/-- `st.blink_on <- v`. -/
def State.setBlink (s : State) (v : Bool) : State := { s with blinkOn := v }
/-- `st.entry_ltr <- v`. -/
def State.setLtr (s : State) (v : Bool) : State := { s with entryLtr := v }
/-- `st.entry_shift <- v`. -/
def State.setShift (s : State) (v : Bool) : State := { s with entryShift := v }

end Sys2Proof.Machine
end

