-- ==== Sys2Proof/Machine/Ops.lean ====
section
/-! DEFINITION. The named operations every meaning is written over: the primitives of R14, the entry of a
LineWriteError (R303), admission (R304, R305), the transfer macros of R160 to R163 as lists of line writes and sleeps,
and the run of such a list. -/

namespace Sys2Proof.Machine

/-! ### Durations in µs (R11, R160, R202 to R207, R360) -/

/-- PULSE, after E Low. -/
def usPulseLow : Nat := 1
/-- PULSE, after E High. -/
def usPulseHigh : Nat := 1
/-- PULSE, after the final E Low: the pulse margin. -/
def usPulseMargin : Nat := 100
/-- `begin` step 1. -/
def usPowerOn : Nat := 50000
/-- `begin` step 2 in W4, after the first nibble. -/
def usNibble1 : Nat := 45000
/-- `begin` step 2 in W4, after the second nibble. -/
def usNibble2 : Nat := 4500
/-- `begin` step 2 in W4, after the third nibble. -/
def usNibble3 : Nat := 150
/-- `begin` step 2 in W8, after the first FunctionSet. -/
def usFunctionSet1 : Nat := 4500
/-- `begin` step 2 in W8, after the second FunctionSet. -/
def usFunctionSet2 : Nat := 150
/-- `begin` step 4b, `clear` and `home`: the clear/home settle. -/
def usClearHome : Nat := 2000

/-! ### Transfers (R160 to R163) -/

/-- A line write or a sleep that a transfer performs. -/
inductive BusOp where
  | write (l : Line) (v : Level)
  | sleep (d : Nat)
  deriving DecidableEq, Repr

/-- `PULSE()` (R160). -/
def pulseOps : List BusOp :=
  [.write .e .low, .sleep usPulseLow, .write .e .high, .sleep usPulseHigh, .write .e .low, .sleep usPulseMargin]

/-- `LineWrite(DB[k], lvl(bit))`. -/
def dataWrite (k : Fin 8) (bit : Bool) : BusOp := .write (.db k) (lvl bit)

/-- `BYTE8(b)` (R161). -/
def byte8Ops (b : Byte) : List BusOp :=
  [dataWrite 0 (b.getLsbD 0), dataWrite 1 (b.getLsbD 1), dataWrite 2 (b.getLsbD 2), dataWrite 3 (b.getLsbD 3),
    dataWrite 4 (b.getLsbD 4), dataWrite 5 (b.getLsbD 5), dataWrite 6 (b.getLsbD 6), dataWrite 7 (b.getLsbD 7)]
  ++ pulseOps

/-- `NIB(n)` (R162): nibble bit i on DB(4+i). -/
def nibOps (n : Nibble) : List BusOp :=
  [dataWrite 4 (n.getLsbD 0), dataWrite 5 (n.getLsbD 1), dataWrite 6 (n.getLsbD 2), dataWrite 7 (n.getLsbD 3)]
  ++ pulseOps

/-- `if st.has_rw: LineWrite(RW, Low)` (R163, R202). -/
def rwLowOps (hasRw : Bool) : List BusOp := if hasRw then [.write .rw .low] else []

/-- `SEND(b, rs)` (R163). -/
def sendOps (w : BusWidth) (hasRw : Bool) (b : Byte) (rs : Level) : List BusOp :=
  .write .rs rs :: (rwLowOps hasRw ++
    match w with
    | .w8 => byte8Ops b
    | .w4 => nibOps (highNibble b) ++ nibOps (lowNibble b))

/-- `SEND` with the engine's own bus width and RW line (R163). -/
def State.sendOps (s : State) (b : Byte) (rs : Level) : List BusOp := Machine.sendOps s.busWidth s.hasRw b rs

/-- `SEND` of each byte in index order (R64). -/
def State.sendAllOps (s : State) (bytes : List Byte) (rs : Level) : List BusOp :=
  bytes.flatMap fun b => s.sendOps b rs

/-! ### Field updates -/

/-- Append an event to the trace; the position in the request moves past it (R15, R21). -/
def State.emit (s : State) (e : Event) : State := { s with trace := s.trace ++ [e], pos := s.pos + 1 }

/-- `st.level[l] <- v` (R33). -/
def State.setLevel (s : State) (l : Line) (v : Level) : State := { s with levels := s.levels.set l v }

/-- `st.phase <- p` (R30). -/
def State.setPhase (s : State) (p : Phase) : State := { s with phase := p }

/-- The request returns `r` (R97). -/
def State.respond (s : State) (r : Result) : State := { s with returns := s.returns ++ [r] }

/-- The position within the request (R21). -/
def State.setPos (s : State) (n : Nat) : State := { s with pos := n }

/-! ### The backend's answers (R14, D36; log 5) -/

/-- The answer the backend gives next: the next one given in advance, else a free draw. -/
def State.nextAnswer (s : State) : Answer :=
  match s.answers with
  | a :: _ => a
  | [] => Config.backendAnswer s.draws

/-- The state after the backend has answered once. -/
def State.answered (s : State) : State :=
  match s.answers with
  | _ :: rest => { s with answers := rest }
  | [] => { s with draws := s.draws + 1 }

/-! ### The request port (R97) -/

/-- The instructions that are calls of R97: those without a word of the opcode table. -/
def isCall (i : Instr) : Bool := (encode i).isNone

/-- What an offer asks for: a call of R97 (a table word offered as a call is none, log 14), or the instruction of a table
word (log 13). -/
def Offer.asked : Offer → Except Refusal Instr
  | .call i => if isCall i then .ok i else .error .malformedCall
  | .word bytes =>
    match decodeBytes bytes with
    | .ok i => .ok i
    | .error why => .error (.undecodable why)

/-! ### The codes of the errors (R300) -/

/-- The code of an error or model fault (R300, D21). -/
def Error.code : Error → Nat
  | .lineBinding _ => 1
  | .lineWrite _ _ _ => 2
  | .notReady _ _ => 16
  | .dropped _ => 17

/-! ### Progress of a request -/

/-- Where a request stands: it goes on, or it has ended with an error (R14, `raise`). -/
inductive Flow where
  | go (s : State)
  | raised (e : Error) (s : State)
  deriving DecidableEq, Repr

/-- Go on with `k` unless the request has ended. -/
def Flow.andThen (f : Flow) (k : State → Flow) : Flow :=
  match f with
  | .go s => k s
  | .raised e s => .raised e s

/-- The request returns: `Ok`, or the error it ended with (R97, R303). -/
def Flow.close : Flow → State
  | .go s => (s.setPos 0).respond .ok
  | .raised e s => (s.setPos 0).respond (.err e)

/-! ### Taking an exception, and the return from one -/

/-- THE ENTRY OF A LineWriteError (R303), the one exception that changes the engine: the refused write is the last event,
the line is at the level the backend left it at, the phase is Faulted, and the request ends with the error, which
records the line, the level and the index of the refused event (R300). Fields the request wrote before keep their
values. There is no handler and no return from it (R309): the caller's way back is `begin`. -/
def State.raiseLineWrite (s : State) (l : Line) (v left : Level) : Flow :=
  .raised (.lineWrite l v s.pos) (((s.emit (.wBang l v)).setLevel l left).setPhase .faulted)

/-- An error at admission (R304, R305): no event, no change of the engine; the request returns the error (log 2). -/
def State.rejectCall (s : State) (e : Error) : State := s.respond (.err e)

/-! ### Primitives (R14) -/

/-- `LineWrite(l, v)`. -/
def State.lineWrite (s : State) (l : Line) (v : Level) : Flow :=
  match s.nextAnswer with
  | .ok => .go ((s.answered.emit (.w l v)).setLevel l v)
  | .fail left => s.answered.raiseLineWrite l v left

/-- `Sleep(d)`. -/
def State.sleep (s : State) (d : Nat) : State := s.emit (.s d)

/-- `LineRelease(l)`. -/
def State.lineRelease (s : State) (l : Line) : State := s.emit (.x l)

/-- `LineRelease` of each line, in the order given. -/
def releaseAll : List Line → State → State
  | [], s => s
  | l :: rest, s => releaseAll rest (s.lineRelease l)

/-- Perform line writes and sleeps in order, up to the first refused write (R167). -/
def runOps : List BusOp → State → Flow
  | [], s => .go s
  | .sleep d :: rest, s => runOps rest (s.sleep d)
  | .write l v :: rest, s => (s.lineWrite l v).andThen (runOps rest)

/-- `LineRequest(l, Low)` of each line in order, for a construction that already holds `held`, newest first (R340).
A line in `taken` is owned, so the backend refuses it (R342, D32); it refuses any other line as it answers. At the
first refusal every line held is released in reverse request order and the construction ends (R342). -/
def requestAll (taken : List LineId) : List (Line × LineId) → List Line → State → Flow
  | [], _, s => .go s
  | (l, id) :: rest, held, s =>
    if s.nextAnswer = .ok ∧ id ∉ taken then requestAll taken rest (l :: held) (s.answered.emit (.q l))
    else .raised (.lineBinding (.lineRefused l)) (releaseAll held (s.answered.emit (.qBang l)))

/-! ### Admission (R304, R305, R307) -/

/-- `require st.alive` (R200, R305, R343): the error of a request `i` on an engine that is not alive. -/
def State.aliveError (s : State) (i : Instr) : Option Error :=
  if s.alive then none else some (.dropped i)

/-- `admit(st)` (R304): Dropped is checked before NotReady (R307). -/
def State.admissionError (s : State) (i : Instr) : Option Error :=
  if s.alive then
    if s.phase = .ready then none else some (.notReady i s.phase)
  else some (.dropped i)

/-- The error of a nibble word `i`: Dropped, or NotReady in Faulted, where only `begin` and `drop` are accepted (R305,
R309; log 4). -/
def State.nibbleError (s : State) (i : Instr) : Option Error :=
  if s.alive then
    if s.phase = .faulted then some (.notReady i .faulted) else none
  else some (.dropped i)

/-- Where a single nibble is sent: "only from" R203, so in the phase that step 2 of `begin` starts in, with RS held Low
(R66, R91, R130; log 4). -/
def State.negotiating (s : State) : Bool :=
  decide (s.phase = .forcedIdle ∧ s.levels.get .rs = .low)

/-- Why an engine has no N4 transfer to make (R130, R162; log 4). -/
def State.nibbleRefusal (s : State) : Option Refusal :=
  match s.busWidth with
  | .w8 => some .nibbleOnByteBus
  | .w4 => if s.negotiating then none else some .nibbleOutsideNegotiation

/-- Serve a request: return its admission error, or run its body from event index 0 and return (R240). -/
def State.serve (s : State) (err : Option Error) (body : State → Flow) : State :=
  match err with
  | some e => s.rejectCall e
  | none => (body (s.setPos 0)).close

/-! ### Transfers as steps of a request -/

/-- `SEND(b, rs)` performed (R163). -/
def sendByte (b : Byte) (rs : Level) (s : State) : Flow := runOps (s.sendOps b rs) s

/-- `NIB(n)` performed (R162). -/
def sendNibble (n : Nibble) (s : State) : Flow := runOps (nibOps n) s

/-- The order of a request after admission (R240): the state mutation, the encoding from the mutated state (`ops`), the
transmission with any settle. -/
def mutateThenSend (mutate : State → State) (ops : State → List BusOp) (s : State) : Flow :=
  runOps (ops (mutate s)) (mutate s)

end Sys2Proof.Machine
end

