-- ==== Sys2Proof/Machine/BusWords.lean ====
section
/-! DEFINITION. The bus-word instructions (formats bus9 and nib4). A bus9 word as an instruction of its own is what `command`
(RS Low) or `write` (RS High) sends (R90, R95, R165, R166; log 3): admission, then SEND of its byte; the engine "updates
no state field from it" (R165). A nib4 word is one NIB transfer of the Transmission Engine (R130, R162; log 4) -/

namespace Sys2Proof.Machine

/-- CLEAR_DISPLAY (R121). -/
def execClearDisplay (s : State) : Host.Outcome State Fault Refusal :=
  .next (s.serve (s.admissionError .clearDisplay) (sendByte (wordByte .clearDisplay) .low))

/-- RETURN_HOME (R122). -/
def execReturnHome (x : BitVec 1) (s : State) : Host.Outcome State Fault Refusal :=
  .next (s.serve (s.admissionError (.returnHome x)) (sendByte (wordByte (.returnHome x)) .low))

/-- ENTRY_MODE_SET (R123). -/
def execEntryModeSet (ltr shift : Bool) (s : State) : Host.Outcome State Fault Refusal :=
  .next (s.serve (s.admissionError (.entryModeSet ltr shift)) (sendByte (wordByte (.entryModeSet ltr shift)) .low))

/-- DISPLAY_CONTROL (R124). -/
def execDisplayControl (d c b : Bool) (s : State) : Host.Outcome State Fault Refusal :=
  .next (s.serve (s.admissionError (.displayControl d c b)) (sendByte (wordByte (.displayControl d c b)) .low))

/-- CURSOR_OR_DISPLAY_SHIFT (R125). -/
def execCursorOrDisplayShift (t : ShiftTarget) (r : Direction) (x : BitVec 2) (s : State) : Host.Outcome State Fault Refusal :=
  .next (s.serve (s.admissionError (.cursorOrDisplayShift t r x)) (sendByte (wordByte (.cursorOrDisplayShift t r x)) .low))

/-- FUNCTION_SET (R126). -/
def execFunctionSet (l : BusWidth) (n : LineCount) (f : Matrix) (x : BitVec 2) (s : State) : Host.Outcome State Fault Refusal :=
  .next (s.serve (s.admissionError (.functionSet l n f x)) (sendByte (wordByte (.functionSet l n f x)) .low))

/-- SET_CGRAM_ADDRESS (R127). -/
def execSetCgramAddress (a : BitVec 6) (s : State) : Host.Outcome State Fault Refusal :=
  .next (s.serve (s.admissionError (.setCgramAddress a)) (sendByte (wordByte (.setCgramAddress a)) .low))

/-- SET_DDRAM_ADDRESS (R128). -/
def execSetDdramAddress (a : BitVec 7) (s : State) : Host.Outcome State Fault Refusal :=
  .next (s.serve (s.admissionError (.setDdramAddress a)) (sendByte (wordByte (.setDdramAddress a)) .low))

/-- WRITE_DATA (R129). -/
def execWriteData (d : Byte) (s : State) : Host.Outcome State Fault Refusal :=
  .next (s.serve (s.admissionError (.writeData d)) (sendByte d .high))

/-- A negotiation nibble (R130, R162; log 4): one NIB, RS and RW not written (D16). Not alive: Dropped; Faulted: NotReady
(R309); no N4 transfer to make there: refused by name. -/
def execNibble (i : Instr) (n : Nibble) (s : State) : Host.Outcome State Fault Refusal :=
  match s.nibbleError i with
  | some e => .next (s.rejectCall e)
  | none =>
    match s.nibbleRefusal with
    | some r => .refused r
    | none => .next (s.serve none (sendNibble n))

/-- INIT_NIBBLE_0011 (R130). -/
def execInitNibble0011 (s : State) : Host.Outcome State Fault Refusal := execNibble .initNibble0011 nib8 s

/-- INIT_NIBBLE_0010 (R130). -/
def execInitNibble0010 (s : State) : Host.Outcome State Fault Refusal := execNibble .initNibble0010 nib4 s

end Sys2Proof.Machine
end

