-- ==== Sys2Proof/Machine/Display.lean ====
section
/-! DEFINITION. The display requests (R240 to R257), each in the order of R240: admission, state mutation, encoding from the
mutated state, transmission, settle, return -/

namespace Sys2Proof.Machine

/-- `set_cursor(col, row)` (R241): SetDDRAMAddress at `row_offsets[r] + col`, r the clamped row. With `line_count` or
`row_offsets` unset, which no reachable Ready state has (D25), it faults (log 15). -/
def execSetCursor (col row : Nat) (s : State) : Host.Outcome State Fault Refusal :=
  match s.admissionError (.setCursor col row), s.cursorAddress col row with
  | some e, _ => .next (s.rejectCall e)
  | none, some a => .next (s.serve none (sendByte (ddByte a) .low))
  | none, none => .fault .unsetField

/-- `print(text)` (R242): each byte as a data byte, in sequence order. -/
def execPrint (text : List Byte) (s : State) : Host.Outcome State Fault Refusal :=
  .next (s.serve (s.admissionError (.print text)) (mutateThenSend id fun s => s.sendAllOps text .high))

/-- `clear()` (R243): ClearDisplay, then the 2000 µs settle. -/
def execClear (s : State) : Host.Outcome State Fault Refusal :=
  .next (s.serve (s.admissionError .clear)
    (mutateThenSend id fun s => s.sendOps clrByte .low ++ [.sleep usClearHome]))

/-- `home()` (R244): ReturnHome, then the 2000 µs settle. -/
def execHome (s : State) : Host.Outcome State Fault Refusal :=
  .next (s.serve (s.admissionError .home)
    (mutateThenSend id fun s => s.sendOps homeByte .low ++ [.sleep usClearHome]))

/-- Re-send the whole DisplayControl command (R245). -/
def State.resendDc (s : State) : List BusOp := s.sendOps s.dc .low

/-- Re-send the whole EntryModeSet command (R251). -/
def State.resendEm (s : State) : List BusOp := s.sendOps s.em .low

/-- `display()` (R245). -/
def execDisplay (s : State) : Host.Outcome State Fault Refusal :=
  .next (s.serve (s.admissionError .display) (mutateThenSend (·.setDisplay true) State.resendDc))

/-- `no_display()` (R246). -/
def execNoDisplay (s : State) : Host.Outcome State Fault Refusal :=
  .next (s.serve (s.admissionError .noDisplay) (mutateThenSend (·.setDisplay false) State.resendDc))

/-- `cursor()` (R247). -/
def execCursor (s : State) : Host.Outcome State Fault Refusal :=
  .next (s.serve (s.admissionError .cursor) (mutateThenSend (·.setCursorOn true) State.resendDc))

/-- `no_cursor()` (R248). -/
def execNoCursor (s : State) : Host.Outcome State Fault Refusal :=
  .next (s.serve (s.admissionError .noCursor) (mutateThenSend (·.setCursorOn false) State.resendDc))

/-- `blink()` (R249). -/
def execBlink (s : State) : Host.Outcome State Fault Refusal :=
  .next (s.serve (s.admissionError .blink) (mutateThenSend (·.setBlink true) State.resendDc))

/-- `no_blink()` (R250). -/
def execNoBlink (s : State) : Host.Outcome State Fault Refusal :=
  .next (s.serve (s.admissionError .noBlink) (mutateThenSend (·.setBlink false) State.resendDc))

/-- `left_to_right()` (R251). -/
def execLeftToRight (s : State) : Host.Outcome State Fault Refusal :=
  .next (s.serve (s.admissionError .leftToRight) (mutateThenSend (·.setLtr true) State.resendEm))

/-- `right_to_left()` (R252). -/
def execRightToLeft (s : State) : Host.Outcome State Fault Refusal :=
  .next (s.serve (s.admissionError .rightToLeft) (mutateThenSend (·.setLtr false) State.resendEm))

/-- `autoscroll()` (R253). -/
def execAutoscroll (s : State) : Host.Outcome State Fault Refusal :=
  .next (s.serve (s.admissionError .autoscroll) (mutateThenSend (·.setShift true) State.resendEm))

/-- `no_autoscroll()` (R254). -/
def execNoAutoscroll (s : State) : Host.Outcome State Fault Refusal :=
  .next (s.serve (s.admissionError .noAutoscroll) (mutateThenSend (·.setShift false) State.resendEm))

/-- `scroll_display_left()` (R255). -/
def execScrollDisplayLeft (s : State) : Host.Outcome State Fault Refusal :=
  .next (s.serve (s.admissionError .scrollDisplayLeft) (sendByte (shByte .display .left) .low))

/-- `scroll_display_right()` (R256). -/
def execScrollDisplayRight (s : State) : Host.Outcome State Fault Refusal :=
  .next (s.serve (s.admissionError .scrollDisplayRight) (sendByte (shByte .display .right) .low))

/-- `create_char(slot, bitmap[8])` (R257): SetCGRAMAddress of the slot, then the 8 bitmap bytes as data, bitmap[0]
first. A call with another number of bytes is outside the request table and refused (R97, log 14). -/
def execCreateChar (slot : Nat) (bitmap : List Byte) (s : State) : Host.Outcome State Fault Refusal :=
  if bitmap.length = 8 then
    .next (s.serve (s.admissionError (.createChar slot bitmap))
      (mutateThenSend id fun s => s.sendOps (cgByte slot) .low ++ s.sendAllOps bitmap .high))
  else .refused .malformedCall

end Sys2Proof.Machine
end

