-- ==== Sys2Proof/Machine/Lifecycle.lean ====
section
/-! DEFINITION. Construction and teardown: the requests `construct` and `drop` (R340 to R344) -/

namespace Sys2Proof.Machine

/-- The line ids the backend refuses because an instance owns them (R342): those of other instances, and those of the
engine in view while it is alive. -/
def State.takenIds (s : State) : List LineId :=
  if s.alive then bindingIds s.pins ++ s.owned else s.owned

/-- The fields a successful construction writes (R340, R344). An engine that was alive is from now on another instance,
which keeps its lines (R324; log 6). -/
def State.install (s : State) (d : Binding) : State :=
  { s with
    pins := d
    busWidth := bindingWidth d
    hasRw := d.rw.isSome
    alive := true
    phase := .poweredUnknown
    displayOn := true
    cursorOn := false
    blinkOn := false
    entryLtr := true
    entryShift := false
    lineCount := none
    matrix := none
    rowOffsets := none
    levels := Levels.allLow
    owned := s.takenIds }

/-- `construct(binding)` (R340 to R342): the legality check, no event if it fails; then a LineRequest for each bound line;
then the engine. If construction fails nothing of the engine in view changes. -/
def execConstruct (d : Binding) (s : State) : Host.Outcome State Fault Refusal :=
  match bindingFault d with
  | some c => .next (s.rejectCall (.lineBinding c))
  | none => .next (s.serve none fun s =>
      (requestAll s.takenIds (bindingLines d) [] s).andThen fun s => .go (s.install d))

/-- `drop()` (R343): every bound line released in request order, then the engine is not alive. -/
def execDrop (s : State) : Host.Outcome State Fault Refusal :=
  .next (s.serve (s.aliveError .drop) fun s =>
    .go { releaseAll ((bindingLines s.pins).map Prod.fst) s with alive := false })

end Sys2Proof.Machine
end

