-- ==== Sys2Proof/Machine/Sequencer.lean ====
section
/-! DEFINITION. The Initialization Sequencer: the request `begin`, step by step (R200 to R211) -/

namespace Sys2Proof.Machine

/-- Step 0 (R201): the configuration, no event. -/
def initStep0 (columns lines : Nat) (m : Matrix) (s : State) : State :=
  { s with
    phase := .poweredUnknown
    lineCount := some (linesOfRequest lines)
    matrix := some (matrixOfRequest m (linesOfRequest lines))
    rowOffsets := some (RowOffsets.ofColumns columns) }

/-- The events of step 1 (R202): the power-on wait, then RS, E and RW (if bound) forced Low. -/
def forcedIdleOps (hasRw : Bool) : List BusOp :=
  [.sleep usPowerOn, .write .rs .low, .write .e .low] ++ rwLowOps hasRw

/-- Step 1 (R202): PoweredUnknown → ForcedIdle. -/
def initStep1 (s : State) : Flow :=
  (runOps (forcedIdleOps s.hasRw) s).andThen fun s => .go (s.setPhase .forcedIdle)

/-- The events of step 2 in W4 (R203): three times 0011, each with its settle, then 0010. -/
def negotiateOps4 : List BusOp :=
  nibOps nib8 ++ [.sleep usNibble1] ++ nibOps nib8 ++ [.sleep usNibble2] ++ nibOps nib8 ++ [.sleep usNibble3]
    ++ nibOps nib4

/-- The events of step 2 in W8 (R204): FunctionSet three times, the first two with their settles. -/
def negotiateOps8 (s : State) : List BusOp :=
  s.sendOps s.fs .low ++ [.sleep usFunctionSet1] ++ s.sendOps s.fs .low ++ [.sleep usFunctionSet2]
    ++ s.sendOps s.fs .low

/-- The events of step 2 (R203, R204). -/
def State.negotiateOps (s : State) : List BusOp :=
  match s.busWidth with
  | .w4 => negotiateOps4
  | .w8 => negotiateOps8 s

/-- Step 2 (R203, R204): ForcedIdle → BusWidthNegotiated. -/
def initStep2 (s : State) : Flow :=
  (runOps s.negotiateOps s).andThen fun s => .go (s.setPhase .busWidthNegotiated)

/-- Step 3 (R205): the authoritative FunctionSet; BusWidthNegotiated → FunctionConfigured. -/
def initStep3 (s : State) : Flow :=
  (runOps (s.sendOps s.fs .low) s).andThen fun s => .go (s.setPhase .functionConfigured)

/-- The flag writes of step 4a (R206). -/
def initDisplayFlags (s : State) : State := ((s.setDisplay true).setCursorOn false).setBlink false

/-- Step 4a (R206): the display flags, then DisplayControl. -/
def initStep4a (s : State) : Flow := mutateThenSend initDisplayFlags State.resendDc s

/-- Step 4b (R207): ClearDisplay and its settle; FunctionConfigured → DisplayOnCleared. -/
def initStep4b (s : State) : Flow :=
  (runOps (s.sendOps clrByte .low ++ [.sleep usClearHome]) s).andThen fun s => .go (s.setPhase .displayOnCleared)

/-- The flag writes of step 5 (R208). -/
def initEntryFlags (s : State) : State := (s.setLtr true).setShift false

/-- Step 5 (R208): the entry flags, then EntryModeSet; DisplayOnCleared → Ready. -/
def initStep5 (s : State) : Flow :=
  (mutateThenSend initEntryFlags State.resendEm s).andThen fun s => .go (s.setPhase .ready)

/-- The whole sequence (R209); a refused write leaves through R303 at once (R211). -/
def initSequence (columns lines : Nat) (m : Matrix) (s : State) : Flow :=
  (((((initStep1 (initStep0 columns lines m s)).andThen initStep2).andThen initStep3).andThen initStep4a).andThen
    initStep4b).andThen initStep5

/-- `begin(columns, lines, character_matrix)` (R200): admitted in every phase of an engine that is alive. -/
def execBeginInit (columns lines : Nat) (m : Matrix) (s : State) : Host.Outcome State Fault Refusal :=
  .next (s.serve (s.aliveError (.beginInit columns lines m)) (initSequence columns lines m))

end Sys2Proof.Machine
end

