-- ==== Sys2Proof/Machine/Transmission.lean ====
section
/-! DEFINITION. The two requests of the Transmission Engine: `command` and `write` (R165, R166) -/

namespace Sys2Proof.Machine

/-- `command(byte)` (R165): admission, SEND with RS Low, no field updated from the byte. -/
def execCommand (b : Byte) (s : State) : Host.Outcome State Fault Refusal :=
  .next (s.serve (s.admissionError (.command b)) (sendByte b .low))

/-- `write(byte)` (R166): admission, SEND with RS High. -/
def execWrite (b : Byte) (s : State) : Host.Outcome State Fault Refusal :=
  .next (s.serve (s.admissionError (.write b)) (sendByte b .high))

end Sys2Proof.Machine
end

