-- ==== Sys2Proof/Machine/Dispatch.lean ====
section
/-! DEFINITION. The dispatch: one arm per instruction. -/

namespace Sys2Proof.Machine

def exec (i : Instr) (s : State) : Host.Outcome State Fault Refusal :=
  match i with
  | .clearDisplay => Sys2Proof.Machine.execClearDisplay s
  | .returnHome x => Sys2Proof.Machine.execReturnHome x s
  | .entryModeSet ltr shift => Sys2Proof.Machine.execEntryModeSet ltr shift s
  | .displayControl d c b => Sys2Proof.Machine.execDisplayControl d c b s
  | .cursorOrDisplayShift t r x => Sys2Proof.Machine.execCursorOrDisplayShift t r x s
  | .functionSet l n f x => Sys2Proof.Machine.execFunctionSet l n f x s
  | .setCgramAddress a => Sys2Proof.Machine.execSetCgramAddress a s
  | .setDdramAddress a => Sys2Proof.Machine.execSetDdramAddress a s
  | .writeData d => Sys2Proof.Machine.execWriteData d s
  | .initNibble0011 => Sys2Proof.Machine.execInitNibble0011 s
  | .initNibble0010 => Sys2Proof.Machine.execInitNibble0010 s
  | .construct d => Sys2Proof.Machine.execConstruct d s
  | .drop => Sys2Proof.Machine.execDrop s
  | .beginInit columns lines m => Sys2Proof.Machine.execBeginInit columns lines m s
  | .command b => Sys2Proof.Machine.execCommand b s
  | .write b => Sys2Proof.Machine.execWrite b s
  | .setCursor col row => Sys2Proof.Machine.execSetCursor col row s
  | .print text => Sys2Proof.Machine.execPrint text s
  | .clear => Sys2Proof.Machine.execClear s
  | .home => Sys2Proof.Machine.execHome s
  | .display => Sys2Proof.Machine.execDisplay s
  | .noDisplay => Sys2Proof.Machine.execNoDisplay s
  | .cursor => Sys2Proof.Machine.execCursor s
  | .noCursor => Sys2Proof.Machine.execNoCursor s
  | .blink => Sys2Proof.Machine.execBlink s
  | .noBlink => Sys2Proof.Machine.execNoBlink s
  | .leftToRight => Sys2Proof.Machine.execLeftToRight s
  | .rightToLeft => Sys2Proof.Machine.execRightToLeft s
  | .autoscroll => Sys2Proof.Machine.execAutoscroll s
  | .noAutoscroll => Sys2Proof.Machine.execNoAutoscroll s
  | .scrollDisplayLeft => Sys2Proof.Machine.execScrollDisplayLeft s
  | .scrollDisplayRight => Sys2Proof.Machine.execScrollDisplayRight s
  | .createChar slot bitmap => Sys2Proof.Machine.execCreateChar slot bitmap s

end Sys2Proof.Machine
end

