-- ==== Sys2Proof/Machine/Step.lean ====
section
/-! DEFINITION. One step: the oldest offer on the request port is served, whole (R21, R320; log 7). -/

namespace Sys2Proof.Machine

/-- One step. With nothing on the port the engine is idle and nothing changes (R325, R344; log 18). Else the oldest offer is
taken and executed; one that asks for no instruction is refused by name (log 13, log 14). -/
def step (s : State) : Host.Outcome State Fault Refusal :=
  match s.port with
  | [] => .next s
  | o :: rest =>
    match o.asked with
    | .ok i => exec i { s with port := rest }
    | .error r => .refused r

/-- `s` with an opcode-table word offered before everything else on the port, so that the very next step decodes and
runs it (log 19). -/
def State.withFetchWord (s : State) (nbits w : Nat) : State :=
  { s with port := .word (tableBytes nbits w) :: s.port }

end Sys2Proof.Machine
end

