-- ==== Sys2Proof/Machine/Observe.lean ====
section
/-! DEFINITION. What is observed of a trace: the latched transfers of R69, the bytes they carry (R92), the sleep
requested (R361), and the last thing a trace says of a line (R33). Pure functions of an event list; the machine never
reads them. -/

namespace Sys2Proof.Machine

/-! ### Latches (R69) -/

/-- What the controller receives at one latch: the level of RS and the levels of the data lines. In W4 only DB4..DB7 are
in use. -/
structure Latch where
  rs : Level
  db : Data8 Level
  deriving DecidableEq, Repr

/-- The latches of a trace (R69): one at each `W(E, Low)` that follows a `W(E, High)`, with the levels last driven before
that `W(E, High)`. `v` is the shadow before the trace, `pending` what an E already High has latched. -/
def latchesFrom (v : Levels) (pending : Option Latch) : List Event → List Latch
  | [] => []
  | .w l a :: rest =>
    match l, a, pending with
    | .e, .high, none => latchesFrom (v.set .e .high) (some ⟨v.rs, v.db⟩) rest
    | .e, .low, some k => k :: latchesFrom (v.set .e .low) none rest
    | l, a, p => latchesFrom (v.set l a) p rest
  | .wBang _ _ :: rest => latchesFrom v pending rest
  | .s _ :: rest => latchesFrom v pending rest
  | .q _ :: rest => latchesFrom v pending rest
  | .qBang _ :: rest => latchesFrom v pending rest
  | .x _ :: rest => latchesFrom v pending rest

/-- The latches of a trace that starts with E Low. -/
def latches (v : Levels) (t : List Event) : List Latch := latchesFrom v none t

/-- The nibble on DB4..DB7: DB(4+i) carries bit i (R63). -/
def Latch.nibble (k : Latch) : Nibble :=
  BitVec.ofBool k.db.d7.bit ++ BitVec.ofBool k.db.d6.bit ++ BitVec.ofBool k.db.d5.bit ++ BitVec.ofBool k.db.d4.bit

/-- The byte on DB0..DB7: DBk carries bit k (R63). -/
def Latch.byte (k : Latch) : Byte :=
  k.nibble ++ (BitVec.ofBool k.db.d3.bit ++ BitVec.ofBool k.db.d2.bit ++ BitVec.ofBool k.db.d1.bit
    ++ BitVec.ofBool k.db.d0.bit : Nibble)

/-- In W4 two latches make a byte, the high nibble first, with the RS level of the first (R92, R163). A latch left
over makes none. -/
def pairNibbles : List Latch → List (Level × Byte)
  | h :: l :: rest => (h.rs, h.nibble ++ l.nibble) :: pairNibbles rest
  | [_] => []
  | [] => []

/-- The bytes a latch list delivers, each with its RS level: one latch per byte in W8, two in W4 (R92). For latches among
which no single nibble is: those of every request but `begin`. -/
def delivered (w : BusWidth) (k : List Latch) : List (Level × Byte) :=
  match w with
  | .w8 => k.map fun k => (k.rs, k.byte)
  | .w4 => pairNibbles k

/-- What a decoder of a trace reads: a single negotiation nibble or a byte, each with its RS level (R92). -/
inductive TraceWord where
  | nibble (rs : Level) (n : Nibble)
  | byte (rs : Level) (b : Byte)
  deriving DecidableEq, Repr

/-- How many latches of an instruction's trace are single N4 nibbles (R92): the first four of `begin` in W4; the one of a
nibble word given as an instruction (log 4). -/
def singleNibbles (i : Instr) (w : BusWidth) : Nat :=
  match i with
  | .beginInit _ _ _ =>
    match w with
    | .w4 => 4
    | .w8 => 0
  | .initNibble0011 | .initNibble0010 => 1
  | .clearDisplay | .returnHome _ | .entryModeSet _ _ | .displayControl _ _ _ | .cursorOrDisplayShift _ _ _
  | .functionSet _ _ _ _ | .setCgramAddress _ | .setDdramAddress _ | .writeData _ | .construct _ | .drop | .command _
  | .write _ | .setCursor _ _ | .print _ | .clear | .home | .display | .noDisplay | .cursor | .noCursor | .blink
  | .noBlink | .leftToRight | .rightToLeft | .autoscroll | .noAutoscroll | .scrollDisplayLeft | .scrollDisplayRight
  | .createChar _ _ => 0

/-- The words of a latch list whose first `single` latches are single nibbles, in W4 (R92). -/
def wordsOf (w : BusWidth) (single : Nat) (k : List Latch) : List TraceWord :=
  match w with
  | .w8 => k.map fun k => .byte k.rs k.byte
  | .w4 => (k.take single).map (fun k => .nibble k.rs k.nibble) ++
      (pairNibbles (k.drop single)).map fun p => .byte p.1 p.2

/-- The words that the trace of instruction `i` holds (R92): every later latch of a `begin` in W4 pairs into bytes. -/
def received (i : Instr) (w : BusWidth) (k : List Latch) : List TraceWord := wordsOf w (singleNibbles i w) k

/-! ### Sleeps and pulses -/

/-- The sum of the trace's `S` events, in µs (R361). -/
def requestedSleep : List Event → Nat
  | [] => 0
  | .s d :: rest => d + requestedSleep rest
  | .q _ :: rest => requestedSleep rest
  | .qBang _ :: rest => requestedSleep rest
  | .x _ :: rest => requestedSleep rest
  | .w _ _ :: rest => requestedSleep rest
  | .wBang _ _ :: rest => requestedSleep rest

/-- The trace goes on with a sleep of at least the pulse margin. -/
def marginNext : List Event → Bool
  | .s d :: _ => decide (usPulseMargin ≤ d)
  | .q _ :: _ | .qBang _ :: _ | .x _ :: _ | .w _ _ :: _ | .wBang _ _ :: _ | [] => false

/-- Whether each `W(E, Low)` after a `W(E, High)` is followed at once by a sleep of at least 100 µs (R350). `up` is
whether E is High before the trace. -/
def marginKept (up : Bool) : List Event → Bool
  | [] => true
  | .w .e .high :: rest => marginKept true rest
  | .w .e .low :: rest => (!up || marginNext rest) && marginKept false rest
  | _ :: rest => marginKept up rest

/-! ### What a trace says of a line (R33) -/

/-- The last `W` or `W!` of line `l` in a trace. -/
def lastWrite (l : Line) (t : List Event) : Option Event :=
  t.reverse.find? fun
    | .w l' _ => l' == l
    | .wBang l' _ => l' == l
    | .q _ => false
    | .qBang _ => false
    | .x _ => false
    | .s _ => false

end Sys2Proof.Machine
end

