-- ==== Sys2Proof/WellFormed.lean ====
section
/-! DEFINITION. Which terms of `Instr` are calls or words of the spec. The types carry every width but one: the
bitmap of `create_char` is "exactly 8 bytes" (R257). A descriptor that R341 refuses is a well-formed call: it returns
LineBindingError. -/

namespace Sys2Proof

/-- The call is one of the table of R97, or the word one of R93 and R130. -/
def Instr.wellFormed : Instr → Bool
  | .createChar _ bitmap => bitmap.length == 8
  | .clearDisplay | .returnHome _ | .entryModeSet _ _ | .displayControl _ _ _ | .cursorOrDisplayShift _ _ _
  | .functionSet _ _ _ _ | .setCgramAddress _ | .setDdramAddress _ | .writeData _ | .initNibble0011
  | .initNibble0010 | .construct _ | .drop | .beginInit _ _ _ | .command _ | .write _ | .setCursor _ _ | .print _
  | .clear | .home | .display | .noDisplay | .cursor | .noCursor | .blink | .noBlink | .leftToRight | .rightToLeft
  | .autoscroll | .noAutoscroll | .scrollDisplayLeft | .scrollDisplayRight => true

end Sys2Proof
end

