-- ==== Sys2Proof/Safety.lean ====
section
/-! DEFINITION. The terms claims are stated in: which answers the backend will give, the state after a list of transfers
that is granted or refused, the bus words of each request as a table, and the invariant of the machine between
requests. Nothing here is part of the machine. -/

namespace Sys2Proof.Machine

/-! ### The backend's answers ahead -/

/-- The answer the backend gives to the `k`-th call from now (counting from 0): an input, or a free draw (log 5). -/
def State.answerAt (s : State) (k : Nat) : Answer :=
  match s.answers[k]? with
  | some a => a
  | none => Config.backendAnswer (s.draws + (k - s.answers.length))

/-- The backend grants the next `n` calls. -/
abbrev State.grants (s : State) (n : Nat) : Prop := ∀ k, k < n → s.answerAt k = .ok

/-- The backend grants the next `n` calls and refuses the one after, leaving the line at `left`. -/
abbrev State.refusesAt (s : State) (n : Nat) (left : Level) : Prop := s.grants n ∧ s.answerAt n = .fail left

/-- The state after the backend has answered `n` calls. -/
def State.drawn (s : State) (n : Nat) : State :=
  { s with answers := s.answers.drop n, draws := s.draws + (n - s.answers.length) }

/-! ### Lists of transfers, granted and refused -/

/-- The event of an operation that is performed (R14). -/
def BusOp.event : BusOp → Event
  | .write l v => .w l v
  | .sleep d => .s d

/-- How many line writes a list holds: the backend answers each one once. -/
def countWrites : List BusOp → Nat
  | [] => 0
  | .write _ _ :: rest => countWrites rest + 1
  | .sleep _ :: rest => countWrites rest

/-- The shadow after every write of the list was accepted: `st.level[l] <- v`, in order (R33). -/
def driven : List BusOp → Levels → Levels
  | [], v => v
  | .write l a :: rest, v => driven rest (v.set l a)
  | .sleep _ :: rest, v => driven rest v

/-- The state after all of `ops` was performed: their events in the trace, the shadow driven, the backend asked once for
each write, and nothing else changed. -/
def State.performed (s : State) (ops : List BusOp) : State :=
  { s.drawn (countWrites ops) with
    trace := s.trace ++ ops.map BusOp.event
    levels := driven ops s.levels }

/-- The state after a request that performed `ops` and returned Ok. -/
def State.completed (s : State) (ops : List BusOp) : State :=
  { s.performed ops with pos := 0, returns := s.returns ++ [.ok] }

/-- The state after a request that performed `done` and whose next line write `(l, v)` was refused, the line left at
`left` (R303): the refused write is the last event, the phase is Faulted, the error records the line, the level and the
index of the refused event. -/
def State.failedAt (s : State) (done : List BusOp) (l : Line) (v left : Level) : State :=
  { (s.performed done).drawn 1 with
    trace := s.trace ++ done.map BusOp.event ++ [.wBang l v]
    levels := (driven done s.levels).set l left
    phase := .faulted
    pos := 0
    returns := s.returns ++ [.err (.lineWrite l v done.length)] }

/-- `t` is `u` in every field of the engine, in the lines of other instances, in the port, the trace and the returns: all
but the model's own bookkeeping of a run, the position `pos` and the draws of the backend (`answers`, `draws`; log 5,
log 11). -/
def State.agrees (t u : State) : Prop := t = { u with pos := t.pos, answers := t.answers, draws := t.draws }

/-- `exec` answers a next state that agrees with `u`. -/
def AnswersLike (s : State) (i : Instr) (u : State) : Prop := ∃ t, exec i s = .next t ∧ t.agrees u

/-- What a request `i` of the Ready class answers in state `s` (R240, R302 to R305, R307), where `m` is `s` after the
request's field writes and `ops` are its line writes and sleeps:
Dropped if the engine is not alive; NotReady if it is alive and not Ready; if it is admitted and every write is granted,
all of `ops` performed and Ok; if it is admitted and a write is refused, the events before it performed, and
LineWriteError. In each case `exec` answers a next state. -/
def AnswersAt (s : State) (i : Instr) (m : State) (ops : List BusOp) : Prop :=
  (s.alive = false → exec i s = .next (s.respond (.err (.dropped i)))) ∧
  (s.alive = true → s.phase ≠ .ready → exec i s = .next (s.respond (.err (.notReady i s.phase)))) ∧
  (s.alive = true → s.phase = .ready → s.grants (countWrites ops) → AnswersLike s i (m.completed ops)) ∧
  (s.alive = true → s.phase = .ready → ∀ done l v rest left, ops = done ++ .write l v :: rest →
    s.refusesAt (countWrites done) left → AnswersLike s i (m.failedAt done l v left))

/-! ### The requests as a table (R98, R165, R166, R240 to R257) -/

/-- The instructions admitted by R304: every request but `construct`, `begin` and `drop`, and the bus9 words
(log 3). -/
def needsReady : Instr → Bool
  | .initNibble0011 | .initNibble0010 | .construct _ | .drop | .beginInit _ _ _ => false
  | .clearDisplay | .returnHome _ | .entryModeSet _ _ | .displayControl _ _ _ | .cursorOrDisplayShift _ _ _
  | .functionSet _ _ _ _ | .setCgramAddress _ | .setDdramAddress _ | .writeData _ | .command _ | .write _
  | .setCursor _ _ | .print _ | .clear | .home | .display | .noDisplay | .cursor | .noCursor | .blink | .noBlink
  | .leftToRight | .rightToLeft | .autoscroll | .noAutoscroll | .scrollDisplayLeft | .scrollDisplayRight
  | .createChar _ _ => true

/-- The field a request writes before it sends (R245 to R254); no other request of the Ready class writes one. -/
def flagWrite (i : Instr) (s : State) : State :=
  match i with
  | .display => s.setDisplay true
  | .noDisplay => s.setDisplay false
  | .cursor => s.setCursorOn true
  | .noCursor => s.setCursorOn false
  | .blink => s.setBlink true
  | .noBlink => s.setBlink false
  | .leftToRight => s.setLtr true
  | .rightToLeft => s.setLtr false
  | .autoscroll => s.setShift true
  | .noAutoscroll => s.setShift false
  | .clearDisplay | .returnHome _ | .entryModeSet _ _ | .displayControl _ _ _ | .cursorOrDisplayShift _ _ _
  | .functionSet _ _ _ _ | .setCgramAddress _ | .setDdramAddress _ | .writeData _ | .initNibble0011
  | .initNibble0010 | .construct _ | .drop | .beginInit _ _ _ | .command _ | .write _ | .setCursor _ _ | .print _
  | .clear | .home | .scrollDisplayLeft | .scrollDisplayRight | .createChar _ _ => s

/-- The bus words `(RS, byte)` a request of the Ready class sends, from the state after its field write (the
'Encoding' line of R165, R166, R241 to R257). -/
def busWords (i : Instr) (s : State) : List (Level × Byte) :=
  match i with
  | .command b => [(.low, b)]
  | .write b => [(.high, b)]
  | .setCursor col row =>
    match s.cursorAddress col row with
    | some a => [(.low, ddByte a)]
    | none => []
  | .print text => text.map fun b => (.high, b)
  | .clear => [(.low, clrByte)]
  | .home => [(.low, homeByte)]
  | .display | .noDisplay | .cursor | .noCursor | .blink | .noBlink => [(.low, s.dc)]
  | .leftToRight | .rightToLeft | .autoscroll | .noAutoscroll => [(.low, s.em)]
  | .scrollDisplayLeft => [(.low, shByte .display .left)]
  | .scrollDisplayRight => [(.low, shByte .display .right)]
  | .createChar slot bitmap => (.low, cgByte slot) :: bitmap.map fun b => (.high, b)
  | .writeData d => [(.high, d)]
  | .clearDisplay | .returnHome _ | .entryModeSet _ _ | .displayControl _ _ _ | .cursorOrDisplayShift _ _ _
  | .functionSet _ _ _ _ | .setCgramAddress _ | .setDdramAddress _ => [(.low, wordByte i)]
  | .initNibble0011 | .initNibble0010 | .construct _ | .drop | .beginInit _ _ _ => []

/-- The settle a request adds after its last transfer (R168, R243, R244). -/
def settleOps (i : Instr) : List BusOp :=
  match i with
  | .clear | .home => [.sleep usClearHome]
  | .clearDisplay | .returnHome _ | .entryModeSet _ _ | .displayControl _ _ _ | .cursorOrDisplayShift _ _ _
  | .functionSet _ _ _ _ | .setCgramAddress _ | .setDdramAddress _ | .writeData _ | .initNibble0011
  | .initNibble0010 | .construct _ | .drop | .beginInit _ _ _ | .command _ | .write _ | .setCursor _ _ | .print _
  | .display | .noDisplay | .cursor | .noCursor | .blink | .noBlink | .leftToRight | .rightToLeft | .autoscroll
  | .noAutoscroll | .scrollDisplayLeft | .scrollDisplayRight | .createChar _ _ => []

/-- The line writes and sleeps of a request of the Ready class, from the state after its field write. -/
def requestOps (i : Instr) (s : State) : List BusOp :=
  ((busWords i s).flatMap fun w => s.sendOps w.2 w.1) ++ settleOps i

/-- The bit of a byte that is the opcode of an instruction sent with RS = 0 (R93). -/
def opcodeBit : Instr → Option Nat
  | .clearDisplay => some 0
  | .returnHome _ => some 1
  | .entryModeSet _ _ => some 2
  | .displayControl _ _ _ => some 3
  | .cursorOrDisplayShift _ _ _ => some 4
  | .functionSet _ _ _ _ => some 5
  | .setCgramAddress _ => some 6
  | .setDdramAddress _ => some 7
  | .writeData _ | .initNibble0011 | .initNibble0010 | .construct _ | .drop | .beginInit _ _ _ | .command _ | .write _
  | .setCursor _ _ | .print _ | .clear | .home | .display | .noDisplay | .cursor | .noCursor | .blink | .noBlink
  | .leftToRight | .rightToLeft | .autoscroll | .noAutoscroll | .scrollDisplayLeft | .scrollDisplayRight
  | .createChar _ _ => none

/-- A `set_cursor` reads `line_count` and `row_offsets`; they are set in every Ready state of the invariant (R346). -/
def fieldsSet (i : Instr) (s : State) : Prop :=
  match i with
  | .setCursor _ _ => s.lineCount.isSome = true ∧ s.rowOffsets.isSome = true
  | .clearDisplay | .returnHome _ | .entryModeSet _ _ | .displayControl _ _ _ | .cursorOrDisplayShift _ _ _
  | .functionSet _ _ _ _ | .setCgramAddress _ | .setDdramAddress _ | .writeData _ | .initNibble0011
  | .initNibble0010 | .construct _ | .drop | .beginInit _ _ _ | .command _ | .write _ | .print _ | .clear | .home
  | .display | .noDisplay | .cursor | .noCursor | .blink | .noBlink | .leftToRight | .rightToLeft | .autoscroll
  | .noAutoscroll | .scrollDisplayLeft | .scrollDisplayRight | .createChar _ _ => True

/-! ### The whole of begin (R209) as three lists of transfers -/

/-- The events of steps 1 to 3, from the state after step 0. -/
def beginOpsFunction (s : State) : List BusOp := forcedIdleOps s.hasRw ++ s.negotiateOps ++ s.sendOps s.fs .low

/-- The events of steps 4a and 4b: DisplayControl 0x0C, ClearDisplay, 2000 µs. -/
def beginOpsDisplay (s : State) : List BusOp :=
  s.sendOps 0x0C#8 .low ++ s.sendOps 0x01#8 .low ++ [.sleep 2000]

/-- The events of step 5: EntryModeSet 0x06. -/
def beginOpsEntry (s : State) : List BusOp := s.sendOps 0x06#8 .low

/-- All the events of `begin`, from the state after step 0. -/
def beginOps (s : State) : List BusOp := beginOpsFunction s ++ beginOpsDisplay s ++ beginOpsEntry s

/-! ### The invariant between requests -/

/-- R27: 5×10 only with one line. -/
def State.matrixOk (s : State) : Prop := s.matrix = some .m5x10 → s.lineCount = some .one

/-- R34: unless a write failed, E is Low and RW, when bound, is Low. -/
def State.idleLevels (s : State) : Prop :=
  s.phase ≠ .faulted → s.levels.get .e = .low ∧ (s.hasRw = true → s.levels.get .rw = .low)

/-- R22 to R24: the bus width and the RW flag are those of the pin binding, which is legal while the engine is alive. -/
def State.bindingOk (s : State) : Prop :=
  s.busWidth = bindingWidth s.pins ∧ s.hasRw = s.pins.rw.isSome ∧ (s.alive = true → bindingFault s.pins = none)

/-- R25, R26, R32, R346: a Ready engine has its configuration, and the offsets are `[0x00, 0x40, cols, 0x40 + cols]`. -/
def State.configured (s : State) : Prop :=
  (s.phase = .ready → s.lineCount.isSome = true ∧ s.matrix.isSome = true ∧ s.rowOffsets.isSome = true) ∧
  ∀ t, s.rowOffsets = some t → t = RowOffsets.ofColumns t.r2

/-- R21, R30: between requests the phase is PoweredUnknown, Ready or Faulted, and no request is in progress. -/
def State.betweenRequests (s : State) : Prop :=
  (s.phase = .poweredUnknown ∨ s.phase = .ready ∨ s.phase = .faulted) ∧ s.pos = 0

/-- R340, R344: before the first `begin` RS is still at the Low of its request. -/
def State.rsLowBeforeBegin (s : State) : Prop := s.phase = .poweredUnknown → s.levels.get .rs = .low

/-- The invariant of the machine between requests. -/
def State.Inv (s : State) : Prop :=
  s.matrixOk ∧ s.idleLevels ∧ s.bindingOk ∧ s.configured ∧ s.rsLowBeforeBegin ∧ s.betweenRequests

end Sys2Proof.Machine
end

