-- ==== Sys2Proof/Certificates/Slice0/Obligations.lean ====
section
/-! DEFINITION. The statements for the provers. Rule numbers are those of spec/; log entries those of
notes/assumptions/. The statements about a next state speak of every field of the engine, the port, the trace and the
returns (`State.agrees`); the position within a request and the draws of the backend are the model's own (log 5,
log 11).
A docstring that ends in 'Model's choices' names the log entries whose decision the statement rests on beside the rules
(log 2: an error is a returned value, so a next state; log 5: the backend's answers; log 8: bit positions). -/

open Sys2Proof Sys2Proof.Machine

/-! ## Encoding -/

/-- Decoding the word of an instruction, or its bytes, gives the instruction back, with every operand (R93, R130).
Model's choices: log 3, log 8, log 12. -/
def Obligations.DecodeEncodeAgree : Prop :=
  ∀ i w, encode i = some w → decode w = .ok i ∧ decodeBytes w.bytes = .ok i

/-- A word that decodes is the word of the instruction it decodes to: no two words share an instruction.
Model's choices: log 3, log 8. -/
def Obligations.EncodeDecodeAgree : Prop :=
  ∀ w i, decode w = .ok i → encode i = some w

/-- R95. The instruction of a byte sent with RS = 0 is the one whose opcode is the highest set bit; every byte the encoder
computes is a pattern of R93 with its `x` bits 0; `command` sends any byte.
Model's choices: log 2, log 5, log 8. -/
def Obligations.DecodePicksHighestSetBit : Prop :=
  (∀ b : Byte, b ≠ 0#8 → ∃ i, decodeWord (0#1 ++ b) = .ok i ∧ opcodeBit i = some b.toNat.log2) ∧
  (clrByte = wordByte .clearDisplay ∧ homeByte = wordByte (.returnHome 0#1) ∧
    (∀ s : State, s.em = wordByte (.entryModeSet s.entryLtr s.entryShift)) ∧
    (∀ s : State, s.dc = wordByte (.displayControl s.displayOn s.cursorOn s.blinkOn)) ∧
    (∀ t d, shByte t d = wordByte (.cursorOrDisplayShift t d 0#2)) ∧
    (∀ (s : State) n m, s.lineCount = some n → s.matrix = some m →
      s.fs = wordByte (.functionSet s.busWidth n m 0#2)) ∧
    (∀ slot, cgByte slot = wordByte (.setCgramAddress (BitVec.ofNat 6 (slot % 8 * 8)))) ∧
    ∀ a, ddByte a = wordByte (.setDdramAddress (BitVec.ofNat 7 a))) ∧
  ∀ (b : Byte) (s : State), s.alive = true → s.phase = .ready → s.grants (countWrites (s.sendOps b .low)) →
    AnswersLike s (.command b) (s.completed (s.sendOps b .low))

/-- The bytes of the encoder functions, from the tables of R121 to R127.
Model's choices: log 8. -/
def Obligations.EncoderProducesTableBytes : Prop :=
  clrByte = 0x01#8 ∧ homeByte = 0x02#8 ∧
  emByte false false = 0x04#8 ∧ emByte false true = 0x05#8 ∧ emByte true false = 0x06#8 ∧ emByte true true = 0x07#8 ∧
  dcByte false false false = 0x08#8 ∧ dcByte false false true = 0x09#8 ∧ dcByte false true false = 0x0A#8 ∧
  dcByte false true true = 0x0B#8 ∧ dcByte true false false = 0x0C#8 ∧ dcByte true false true = 0x0D#8 ∧
  dcByte true true false = 0x0E#8 ∧ dcByte true true true = 0x0F#8 ∧
  shByte .cursor .left = 0x10#8 ∧ shByte .cursor .right = 0x14#8 ∧ shByte .display .left = 0x18#8 ∧
  shByte .display .right = 0x1C#8 ∧
  fsByte false false false = 0x20#8 ∧ fsByte false false true = 0x24#8 ∧ fsByte false true false = 0x28#8 ∧
  fsByte true false false = 0x30#8 ∧ fsByte true false true = 0x34#8 ∧ fsByte true true false = 0x38#8 ∧
  cgByte 0 = 0x40#8 ∧ cgByte 3 = 0x58#8 ∧ cgByte 7 = 0x78#8 ∧ cgByte 9 = 0x48#8 ∧ cgByte 255 = 0x78#8

/-- R121, R124, R127: the encoder functions whose bits are all the source's, over every state and every slot; being
functions to a byte they write no field, emit no event and raise nothing (R120). -/
def Obligations.EncoderFunctionsOfTheSource : Prop :=
  clrByte = 0x01#8 ∧
  (∀ s : State, s.dc =
    0x08#8 ||| (BitVec.ofBool s.displayOn).setWidth 8 <<< 2 ||| (BitVec.ofBool s.cursorOn).setWidth 8 <<< 1 |||
      (BitVec.ofBool s.blinkOn).setWidth 8 <<< 0) ∧
  ∀ slot : Nat, cgByte slot = 0x40#8 ||| BitVec.ofNat 8 ((slot &&& 7) <<< 3)

/-- `DD(a)` (R128): bit 7 set over the address mod 128, which is `(0x80 | a) mod 256`. -/
def Obligations.DdByteIsAddressModulo128 : Prop :=
  ∀ a, (ddByte a).toNat = 128 + a % 128 ∧ (ddByte a).toNat = (0x80 ||| a) % 256

/-- R126: the values FS takes when the line count and the matrix are set and agree (R27) are these six, and each of them is
reached; 0x2C and 0x3C are not among them.
Model's choices: log 8. -/
def Obligations.FunctionSetReachesSixValues : Prop :=
  ∀ b : Byte,
    (∃ s : State, s.matrixOk ∧ s.lineCount.isSome = true ∧ s.matrix.isSome = true ∧ s.fs = b) ↔
      b ∈ [0x20#8, 0x24#8, 0x28#8, 0x30#8, 0x34#8, 0x38#8]

/-- Words written out bit by bit from the patterns of R93 and R130 decode to what they stand for.
Model's choices: log 8. -/
def Obligations.WrittenWordsDecode : Prop :=
  decode (.word 0b0_00000001#9) = .ok .clearDisplay ∧
  decode (.word 0b0_00000010#9) = .ok (.returnHome 0#1) ∧
  decode (.word 0b0_00000110#9) = .ok (.entryModeSet true false) ∧
  decode (.word 0b0_00001101#9) = .ok (.displayControl true false true) ∧
  decode (.word 0b0_00011000#9) = .ok (.cursorOrDisplayShift .display .left 0#2) ∧
  decode (.word 0b0_00110100#9) = .ok (.functionSet .w8 .one .m5x10 0#2) ∧
  decode (.word 0b0_01011000#9) = .ok (.setCgramAddress 0x18#6) ∧
  decode (.word 0b0_11000000#9) = .ok (.setDdramAddress 0x40#7) ∧
  decode (.word 0b1_01001000#9) = .ok (.writeData 0x48#8) ∧
  decode (.nibble 0b0011#4) = .ok .initNibble0011 ∧ decode (.nibble 0b0010#4) = .ok .initNibble0010

/-- Exactly one 9-bit word has no instruction, RS = 0 with byte 0x00 (R96), and every nibble but 0011 and 0010 has none
(R130): every other word and these two nibbles decode, and the decoder refuses the rest by name.
Model's choices: log 13. -/
def Obligations.WordsOutsideTheTableAreRejected : Prop :=
  (∀ w : BitVec 9, (∃ i, decode (.word w) = .ok i) ↔ w ≠ 0#9) ∧
  decode (.word 0#9) = .error .noInstruction ∧
  (∀ n : Nibble, (∃ i, decode (.nibble n) = .ok i) ↔ n = 0b0011#4 ∨ n = 0b0010#4) ∧
  ∀ n : Nibble, n ≠ 0b0011#4 → n ≠ 0b0010#4 → decode (.nibble n) = .error .notNegotiationNibble

/-! ## Steps -/

/-- A step executes the oldest offer on the port, a call of R97 or a decoded word, at the state without that offer. A table
word offered as a call is no call of R97 (D33, U15), and an offered word outside the table has no instruction: both are
refused by name.
Model's choices: log 13, log 14, log 19. -/
def Obligations.StepRunsTheOldestOffer : Prop :=
  ∀ (s : State) (rest : List Offer),
    (∀ i, s.port = .call i :: rest → encode i = none → step s = exec i { s with port := rest }) ∧
    (∀ i w, s.port = .call i :: rest → encode i = some w → step s = .refused .malformedCall) ∧
    (∀ bytes i, s.port = .word bytes :: rest → decodeBytes bytes = .ok i → step s = exec i { s with port := rest }) ∧
    ∀ bytes why, s.port = .word bytes :: rest → decodeBytes bytes = .error why →
      step s = .refused (.undecodable why)

/-- With nothing offered a step changes nothing (R325; log 18). -/
def Obligations.IdleEngineStaysPut : Prop := ∀ s : State, s.port = [] → step s = .next s

/-! ## Construction and teardown -/

/-- The state before any request (log 1): the values R344 gives that do not come from the descriptor, no engine yet. -/
def Obligations.ResetHoldsTheDefaults : Prop :=
  State.reset.phase = .poweredUnknown ∧ State.reset.displayOn = true ∧ State.reset.cursorOn = false ∧
  State.reset.blinkOn = false ∧ State.reset.entryLtr = true ∧ State.reset.entryShift = false ∧
  State.reset.lineCount = none ∧ State.reset.matrix = none ∧ State.reset.rowOffsets = none ∧
  State.reset.alive = false ∧ State.reset.trace = [] ∧ State.reset.returns = [] ∧ ∀ l, State.reset.levels.get l = .low

/-- R340, R344: the state after a successful construction, every field; the lines requested are the present ones among RS,
RW, E, DB0..DB7, in that order; the lines of other instances stay owned, and those of an engine that was in view are owned
from then on; nothing runs until a request arrives.
Model's choices: log 1, log 5, log 6, log 18. -/
def Obligations.ConstructGivesTheResetState : Prop :=
  (∀ (d : Binding) (s : State), bindingFault d = none → (∀ id ∈ bindingIds d, id ∉ s.takenIds) →
    s.grants (bindingLines d).length →
    ∃ t, exec (.construct d) s = .next t ∧
      t.pins = d ∧ t.hasRw = d.rw.isSome ∧
      t.busWidth = (if (d.db.get 0).isSome ∧ (d.db.get 1).isSome ∧ (d.db.get 2).isSome ∧ (d.db.get 3).isSome
        then .w8 else .w4) ∧
      t.alive = true ∧ t.phase = .poweredUnknown ∧ t.displayOn = true ∧ t.cursorOn = false ∧ t.blinkOn = false ∧
      t.entryLtr = true ∧ t.entryShift = false ∧ t.lineCount = none ∧ t.matrix = none ∧ t.rowOffsets = none ∧
      (∀ p ∈ bindingLines d, t.levels.get p.1 = .low) ∧
      t.trace = s.trace ++ (bindingLines d).map (fun p => .q p.1) ∧ t.returns = s.returns ++ [.ok] ∧
      t.owned = (if s.alive then bindingIds s.pins ++ s.owned else s.owned) ∧ t.port = s.port) ∧
  (∀ d : Binding,
    (bindingLines d =
      ([(.rs, d.rs), (.rw, d.rw), (.e, d.e), (.db 0, d.db.get 0), (.db 1, d.db.get 1), (.db 2, d.db.get 2),
        (.db 3, d.db.get 3), (.db 4, d.db.get 4), (.db 5, d.db.get 5), (.db 6, d.db.get 6), (.db 7, d.db.get 7)] :
        List (Line × Option LineId)).filterMap fun p => p.2.map fun id => (p.1, id)) ∧
    bindingIds d = (bindingLines d).map Prod.snd) ∧
  ∀ s : State, s.port = [] → step s = .next s

/-- R341: the five checks in order, each with the field or line id it names and the code of R300, none with an event or a
change; and a descriptor that passes all five has no fault.
Model's choices: log 2, log 16. -/
def Obligations.ConstructChecksTheBindingInOrder : Prop :=
  ∀ (d : Binding) (s : State),
    (d.rs = none → exec (.construct d) s = .next (s.respond (.err (.lineBinding .rsMissing)))) ∧
    (d.rs ≠ none → d.e = none → exec (.construct d) s = .next (s.respond (.err (.lineBinding .eMissing)))) ∧
    (d.rs ≠ none → d.e ≠ none → (∃ k : Fin 8, 4 ≤ k.val ∧ d.db.get k = none) →
      ∃ k : Fin 8, 4 ≤ k.val ∧ d.db.get k = none ∧
        exec (.construct d) s = .next (s.respond (.err (.lineBinding (.dbMissing k))))) ∧
    (d.rs ≠ none → d.e ≠ none → (∀ k : Fin 8, 4 ≤ k.val → d.db.get k ≠ none) →
      (∃ k : Fin 8, k.val < 4 ∧ d.db.get k = none) → (∃ k : Fin 8, k.val < 4 ∧ d.db.get k ≠ none) →
      exec (.construct d) s = .next (s.respond (.err (.lineBinding .partialLowNibble)))) ∧
    (d.rs ≠ none → d.e ≠ none → (∀ k : Fin 8, 4 ≤ k.val → d.db.get k ≠ none) →
      ((∀ k : Fin 8, k.val < 4 → d.db.get k = none) ∨ ∀ k : Fin 8, k.val < 4 → d.db.get k ≠ none) →
      ¬ (bindingIds d).Nodup →
      ∃ id, 2 ≤ (bindingIds d).count id ∧
        exec (.construct d) s = .next (s.respond (.err (.lineBinding (.duplicateLineId id))))) ∧
    (d.rs ≠ none → d.e ≠ none → (∀ k : Fin 8, 4 ≤ k.val → d.db.get k ≠ none) →
      ((∀ k : Fin 8, k.val < 4 → d.db.get k = none) ∨ ∀ k : Fin 8, k.val < 4 → d.db.get k ≠ none) →
      (bindingIds d).Nodup → bindingFault d = none) ∧
    ∀ c, (Error.lineBinding c).code = 1

/-- R342: when the backend refuses a line, or another owner has it, the lines requested before it are released in reverse
order, the error names it, and no engine results: nothing of the engine in view changes.
Model's choices: log 2, log 5, log 6, log 16. -/
def Obligations.ConstructFailureReleasesInReverse : Prop :=
  ∀ (d : Binding) (s : State) (pre post : List (Line × LineId)) (l : Line) (id : LineId),
    bindingFault d = none → bindingLines d = pre ++ (l, id) :: post → (∀ p ∈ pre, p.2 ∉ s.takenIds) →
    s.grants pre.length → (s.answerAt pre.length ≠ .ok ∨ id ∈ s.takenIds) →
    AnswersLike s (.construct d)
      { s with
        trace := s.trace ++ pre.map (fun p => .q p.1) ++ [.qBang l] ++ pre.reverse.map (fun p => .x p.1)
        returns := s.returns ++ [.err (.lineBinding (.lineRefused l))] }

/-- A binding with a line that another instance owns never succeeds, whatever the backend answers: an error is returned
and the engine in view is as before (R73, R342, D32). An engine in view that is alive counts as another instance
(log 6), and keeps its lines once a new engine is in view.
Model's choices: log 2. -/
def Obligations.OverlappingBindingNeverSucceeds : Prop :=
  ∀ (d : Binding) (s : State),
    ((∃ id ∈ bindingIds d, id ∈ s.owned ∨ (s.alive = true ∧ id ∈ bindingIds s.pins)) →
      ∃ evs c, AnswersLike s (.construct d)
        { s with trace := s.trace ++ evs, returns := s.returns ++ [.err (.lineBinding c)] }) ∧
    ∀ t, exec (.construct d) s = .next t → t.returns = s.returns ++ [.ok] →
      s.alive = true → ∀ id ∈ bindingIds s.pins, id ∈ t.owned

/-- R343: teardown releases every bound line in request order, ends the engine's life and cannot fail, in every phase;
on an engine that is not alive it raises Dropped. That it is recorded as Ok where D34 says that drop returns nothing
(log 11), and that the shadow and every field but alive stay (log 21), is the model's.
Model's choices: log 2, log 11, log 21. -/
def Obligations.DropReleasesEveryLine : Prop :=
  ∀ s : State,
    (s.alive = true → AnswersLike s .drop
      { s with
        alive := false
        trace := s.trace ++ (bindingLines s.pins).map (fun p => .x p.1)
        returns := s.returns ++ [.ok] }) ∧
    (s.alive = false → exec .drop s = .next (s.respond (.err (.dropped .drop))))

/-! ## Transmission -/

/-- The event sequences of PULSE, BYTE8, NIB and SEND (R160 to R163). -/
def Obligations.MacroEventSequences : Prop :=
  pulseOps.map BusOp.event = [.w .e .low, .s 1, .w .e .high, .s 1, .w .e .low, .s 100] ∧
  (∀ b : Byte, (byte8Ops b).map BusOp.event =
    [.w (.db 0) (lvl b[0]), .w (.db 1) (lvl b[1]), .w (.db 2) (lvl b[2]), .w (.db 3) (lvl b[3]),
      .w (.db 4) (lvl b[4]), .w (.db 5) (lvl b[5]), .w (.db 6) (lvl b[6]), .w (.db 7) (lvl b[7])] ++
      pulseOps.map BusOp.event) ∧
  (∀ n : Nibble, (nibOps n).map BusOp.event =
    [.w (.db 4) (lvl n[0]), .w (.db 5) (lvl n[1]), .w (.db 6) (lvl n[2]), .w (.db 7) (lvl n[3])] ++
      pulseOps.map BusOp.event) ∧
  ∀ (b : Byte) (rs : Level) (hasRw : Bool),
    (sendOps .w8 hasRw b rs).map BusOp.event =
      [.w .rs rs] ++ (if hasRw then [.w .rw .low] else []) ++ (byte8Ops b).map BusOp.event ∧
    (sendOps .w4 hasRw b rs).map BusOp.event =
      [.w .rs rs] ++ (if hasRw then [.w .rw .low] else []) ++ (nibOps (b >>> 4 |>.setWidth 4)).map BusOp.event ++
        (nibOps ((b &&& 0x0F#8).setWidth 4)).map BusOp.event

/-- R164: event counts and requested sleep of the macros, with and without RW; and the latches of 0xA5 in both widths. -/
def Obligations.MacroCounts : Prop :=
  (pulseOps.length = 6 ∧ requestedSleep (pulseOps.map BusOp.event) = 102) ∧
  (∀ n, (nibOps n).length = 10 ∧ requestedSleep ((nibOps n).map BusOp.event) = 102) ∧
  (∀ b, (byte8Ops b).length = 14 ∧ requestedSleep ((byte8Ops b).map BusOp.event) = 102) ∧
  (∀ b rs, (sendOps .w8 false b rs).length = 15 ∧ (sendOps .w8 true b rs).length = 16 ∧
    (sendOps .w4 false b rs).length = 21 ∧ (sendOps .w4 true b rs).length = 22 ∧
    ∀ rw, requestedSleep ((sendOps .w8 rw b rs).map BusOp.event) = 102 ∧
      requestedSleep ((sendOps .w4 rw b rs).map BusOp.event) = 204) ∧
  ∀ v rw rs, (latches v ((sendOps .w4 rw 0xA5#8 rs).map BusOp.event)).map Latch.nibble = [0xA#4, 0x5#4] ∧
    (latches v ((sendOps .w8 rw 0xA5#8 rs).map BusOp.event)).map Latch.byte = [0xA5#8]

/-- What SEND delivers to the controller, read from its latches: the byte, with its RS level (R63, R69, R90). -/
def Obligations.SendDeliversItsByte : Prop :=
  ∀ (w : BusWidth) (rw : Bool) (b : Byte) (rs : Level) (v : Levels),
    delivered w (latches v ((sendOps w rw b rs).map BusOp.event)) = [(rs, b)]

/-- R165: `command` sends any byte with RS Low, adds no settle, updates no field; its admission and its errors.
Model's choices: log 2, log 5. -/
def Obligations.CommandSendsByteWithRsLow : Prop :=
  ∀ (b : Byte) (s : State), AnswersAt s (.command b) s (sendOps s.busWidth s.hasRw b .low)

/-- R166: `write` sends any byte with RS High, updates no field; its admission and its errors.
Model's choices: log 2, log 5. -/
def Obligations.WriteSendsByteWithRsHigh : Prop :=
  ∀ (b : Byte) (s : State), AnswersAt s (.write b) s (sendOps s.busWidth s.hasRw b .high)

/-- A bus word as an instruction of its own is sent as `command` or `write` sends it (the model's reading, log 3): its
byte with its RS level, no field updated from it. The instructions with a 9-bit word are the nine of bus9:
`clearDisplay`, `returnHome`, `entryModeSet`, `displayControl`, `cursorOrDisplayShift`, `functionSet`,
`setCgramAddress`, `setDdramAddress` and `writeData`.
Model's choices: log 2, log 5, log 8. -/
def Obligations.BusWordsAreSentAsTheyStand : Prop :=
  ∀ (i : Instr) (w : BitVec 9) (s : State), encode i = some (.word w) →
    AnswersAt s i s (sendOps s.busWidth s.hasRw (w.setWidth 8) (lvl w[8]))

/-- A negotiation nibble (INIT_NIBBLE_0011, INIT_NIBBLE_0010) is one NIB transfer, RS and RW not written (R130, R162), on a
W4 engine in phase ForcedIdle whose RS is Low: performed if granted, ended by the LineWriteError if refused. The
controller receives it as a single nibble (R92) with RS Low. Step 1 of `begin` leaves a W4 engine in such a state; by the
invariant no request ends in one. Dropped on an engine not alive, NotReady in Faulted (R309). A nibble alone is the model's reading
(log 4).
Model's choices: log 2, log 4, log 5. -/
def Obligations.NibblesTransferOnFourBitBus : Prop :=
  ∀ (i : Instr) (n : Nibble) (s : State),
    (i = .initNibble0011 ∧ n = 0b0011#4) ∨ (i = .initNibble0010 ∧ n = 0b0010#4) →
    (s.alive = false → exec i s = .next (s.respond (.err (.dropped i)))) ∧
    (s.alive = true → s.phase = .faulted → exec i s = .next (s.respond (.err (.notReady i .faulted)))) ∧
    (s.alive = true → s.busWidth = .w4 → s.phase = .forcedIdle → s.levels.get .rs = .low →
      (s.grants (countWrites (nibOps n)) → AnswersLike s i (s.completed (nibOps n))) ∧
      (∀ done l v rest left, nibOps n = done ++ .write l v :: rest → s.refusesAt (countWrites done) left →
        AnswersLike s i (s.failedAt done l v left)) ∧
      received i .w4 (latches s.levels ((nibOps n).map BusOp.event)) = [.nibble .low n]) ∧
    ∀ (columns lines : Nat) (m : Matrix) (t : State), initStep1 (initStep0 columns lines m s) = .go t →
      t.alive = s.alive ∧ t.busWidth = s.busWidth ∧ t.phase = .forcedIdle ∧ t.levels.get .rs = .low

/-- On an engine that is alive and not Faulted there is no nibble transfer on a W8 bus ("W4 only", R162), nor on a W4 bus in
another phase than ForcedIdle or with RS not Low ("RS held Low", "only from" R203; R130): the model refuses by name. And
before `begin`, in phase PoweredUnknown, no instruction but `begin` drives a line, so that nothing latches.
Model's choices: log 4. -/
def Obligations.NibblesStopOutsideNegotiation : Prop :=
  (∀ s : State, s.alive = true → s.phase ≠ .faulted →
    (s.busWidth = .w8 →
      exec .initNibble0011 s = .refused .nibbleOnByteBus ∧ exec .initNibble0010 s = .refused .nibbleOnByteBus) ∧
    (s.busWidth = .w4 → s.phase ≠ .forcedIdle ∨ s.levels.get .rs = .high →
      exec .initNibble0011 s = .refused .nibbleOutsideNegotiation ∧
      exec .initNibble0010 s = .refused .nibbleOutsideNegotiation)) ∧
  ∀ (i : Instr) (s t : State), s.phase = .poweredUnknown → (∀ columns lines m, i ≠ .beginInit columns lines m) →
    exec i s = .next t →
    ∃ evs, t.trace = s.trace ++ evs ∧ ∀ l v, .w l v ∉ evs ∧ .wBang l v ∉ evs

/-! ## begin -/

/-- R346 and R209: a granted `begin` performs the whole sequence in order, in every phase, and leaves the engine Ready
with the configuration of its arguments, the default flags and the levels of R346.
Model's choices: log 5, log 8, log 17. -/
def Obligations.BeginLeavesTheEngineReady : Prop :=
  ∀ (columns lines : Nat) (m : Matrix) (s : State), s.alive = true →
    s.grants (countWrites (beginOps (initStep0 columns lines m s))) →
    ∃ t, exec (.beginInit columns lines m) s = .next t ∧
      t.phase = .ready ∧ t.lineCount = some (if lines > 1 then .two else .one) ∧
      t.matrix = some (if m = .m5x10 ∧ ¬ lines > 1 then .m5x10 else .m5x8) ∧
      t.rowOffsets = some ⟨0x00, 0x40, columns, 0x40 + columns⟩ ∧
      t.displayOn = true ∧ t.cursorOn = false ∧ t.blinkOn = false ∧ t.entryLtr = true ∧ t.entryShift = false ∧
      t.levels.get .e = .low ∧ t.levels.get .rs = .low ∧ (s.hasRw = true → t.levels.get .rw = .low) ∧
      (s.hasRw = false → t.levels.get .rw = s.levels.get .rw) ∧
      t.levels.get (.db 4) = .low ∧ t.levels.get (.db 7) = .low ∧
      (s.busWidth = .w4 → t.levels.get (.db 5) = .high ∧ t.levels.get (.db 6) = .high ∧
        ∀ k : Fin 8, k.val < 4 → t.levels.get (.db k) = s.levels.get (.db k)) ∧
      (s.busWidth = .w8 → t.levels.get (.db 1) = .high ∧ t.levels.get (.db 2) = .high ∧
        t.levels.get (.db 0) = .low ∧ t.levels.get (.db 3) = .low ∧ t.levels.get (.db 5) = .low ∧
        t.levels.get (.db 6) = .low) ∧
      t.trace = s.trace ++ (beginOps (initStep0 columns lines m s)).map BusOp.event ∧
      t.returns = s.returns ++ [.ok] ∧
      t.pins = s.pins ∧ t.busWidth = s.busWidth ∧ t.hasRw = s.hasRw ∧ t.alive = true ∧ t.owned = s.owned ∧
      t.port = s.port

/-- The events of `begin` spelled out as R202 to R208 give them, in both widths; and what a decoder of its trace reads
(R92, R209): in W4 four single nibbles and then bytes, in W8 bytes only, all with RS Low.
Model's choices: log 8, log 9. -/
def Obligations.BeginEventsAreThoseOfItsSteps : Prop :=
  ∀ s : State,
    (s.busWidth = .w4 → beginOps s =
      [.sleep 50000, .write .rs .low, .write .e .low] ++ (if s.hasRw then [.write .rw .low] else []) ++
      nibOps 3#4 ++ [.sleep 45000] ++ nibOps 3#4 ++ [.sleep 4500] ++ nibOps 3#4 ++ [.sleep 150] ++ nibOps 2#4 ++
      s.sendOps s.fs .low ++ s.sendOps 0x0C#8 .low ++ s.sendOps 0x01#8 .low ++ [.sleep 2000] ++
      s.sendOps 0x06#8 .low) ∧
    (s.busWidth = .w8 → beginOps s =
      [.sleep 50000, .write .rs .low, .write .e .low] ++ (if s.hasRw then [.write .rw .low] else []) ++
      s.sendOps s.fs .low ++ [.sleep 4500] ++ s.sendOps s.fs .low ++ [.sleep 150] ++ s.sendOps s.fs .low ++
      s.sendOps s.fs .low ++ s.sendOps 0x0C#8 .low ++ s.sendOps 0x01#8 .low ++ [.sleep 2000] ++
      s.sendOps 0x06#8 .low) ∧
    ∀ (columns lines : Nat) (m : Matrix) (v : Levels),
      received (.beginInit columns lines m) s.busWidth (latches v ((beginOps s).map BusOp.event)) =
        match s.busWidth with
        | .w4 => [.nibble .low 3#4, .nibble .low 3#4, .nibble .low 3#4, .nibble .low 2#4, .byte .low s.fs,
            .byte .low 0x0C#8, .byte .low 0x01#8, .byte .low 0x06#8]
        | .w8 => [.byte .low s.fs, .byte .low s.fs, .byte .low s.fs, .byte .low s.fs, .byte .low 0x0C#8,
            .byte .low 0x01#8, .byte .low 0x06#8]

/-- R211: a refused write ends `begin` there; the configuration is that of the failed call, the display flags are the
defaults from step 4a on, the entry flags from step 5 on.
Model's choices: log 2, log 5. -/
def Obligations.BeginFailureKeepsEarlierWrites : Prop :=
  ∀ (columns lines : Nat) (m : Matrix) (s s0 : State) (done rest : List BusOp) (l : Line) (v left : Level),
    s.alive = true → s0 = initStep0 columns lines m s →
    (beginOpsFunction s0 = done ++ .write l v :: rest → s.refusesAt (countWrites done) left →
      AnswersLike s (.beginInit columns lines m) (s0.failedAt done l v left)) ∧
    (beginOpsDisplay s0 = done ++ .write l v :: rest →
      s.refusesAt (countWrites (beginOpsFunction s0 ++ done)) left →
      AnswersLike s (.beginInit columns lines m)
        ({ s0 with displayOn := true, cursorOn := false, blinkOn := false }.failedAt (beginOpsFunction s0 ++ done)
          l v left)) ∧
    (beginOpsEntry s0 = done ++ .write l v :: rest →
      s.refusesAt (countWrites (beginOpsFunction s0 ++ beginOpsDisplay s0 ++ done)) left →
      AnswersLike s (.beginInit columns lines m)
        ({ s0 with displayOn := true, cursorOn := false, blinkOn := false, entryLtr := true, entryShift := false
          }.failedAt (beginOpsFunction s0 ++ beginOpsDisplay s0 ++ done) l v left))

/-- R213: events and requested sleep of a successful `begin`, for each bus width, with RW absent and bound.
Model's choices: log 5. -/
def Obligations.BeginTotals : Prop :=
  ∀ (columns lines : Nat) (m : Matrix) (s t : State), s.alive = true →
    s.grants (countWrites (beginOps (initStep0 columns lines m s))) →
    exec (.beginInit columns lines m) s = .next t →
    ∃ evs, t.trace = s.trace ++ evs ∧
      evs.length = (match s.busWidth, s.hasRw with
        | .w4, false => 131
        | .w4, true => 136
        | .w8, false => 111
        | .w8, true => 119) ∧
      requestedSleep evs = (match s.busWidth with
        | .w4 => 102874
        | .w8 => 57364)

/-- R212: `begin` is its steps in order; step 0 sets PoweredUnknown and each later step performs its own events and then
moves the phase to the next of the six (step 4 after 4b), or it ends in Faulted; no step moves it otherwise.
Model's choices: log 5, log 11. -/
def Obligations.SequencerPassesItsPhasesInOrder : Prop :=
  (∀ (columns lines : Nat) (m : Matrix) (s : State), s.alive = true →
    exec (.beginInit columns lines m) s = .next ((((((initStep1 (initStep0 columns lines m (s.setPos 0))).andThen
      initStep2).andThen initStep3).andThen initStep4a).andThen initStep4b).andThen initStep5).close) ∧
  ∀ s : State,
    (∀ columns lines m, (initStep0 columns lines m s).phase = .poweredUnknown ∧
      (initStep0 columns lines m s).trace = s.trace) ∧
    ∀ (f : State → Flow) (p : Phase) (ops : List BusOp),
      (f = initStep1 ∧ p = .forcedIdle ∧ ops = forcedIdleOps s.hasRw) ∨
      (f = initStep2 ∧ p = .busWidthNegotiated ∧ ops = s.negotiateOps) ∨
      (f = initStep3 ∧ p = .functionConfigured ∧ ops = s.sendOps s.fs .low) ∨
      (f = initStep4a ∧ p = s.phase ∧ ops = s.sendOps 0x0C#8 .low) ∨
      (f = initStep4b ∧ p = .displayOnCleared ∧ ops = s.sendOps 0x01#8 .low ++ [.sleep 2000]) ∨
      (f = initStep5 ∧ p = .ready ∧ ops = s.sendOps 0x06#8 .low) →
      (s.grants (countWrites ops) →
        ∃ t, f s = .go t ∧ t.phase = p ∧ t.trace = s.trace ++ ops.map BusOp.event) ∧
      ∀ done l v rest left, ops = done ++ .write l v :: rest → s.refusesAt (countWrites done) left →
        ∃ t, f s = .raised (.lineWrite l v (s.pos + done.length)) t ∧ t.phase = .faulted

/-- R210: what `begin` does depends on nothing an earlier request left in the flags, the configuration, the phase or the
levels: two live engines with the same lines and the same backend answers emit the same events, return the same, and,
if it succeeds, end in the same configuration; the bus width stays.
Model's choices: log 5, log 11. -/
def Obligations.BeginForgetsThePast : Prop :=
  ∀ (columns lines : Nat) (m : Matrix) (s s' : State), s.alive = true → s'.alive = true → s.busWidth = s'.busWidth →
    s.hasRw = s'.hasRw → s.answers = s'.answers → s.draws = s'.draws →
    ∃ t t' evs r, exec (.beginInit columns lines m) s = .next t ∧ exec (.beginInit columns lines m) s' = .next t' ∧
      t.trace = s.trace ++ evs ∧ t'.trace = s'.trace ++ evs ∧
      t.returns = s.returns ++ [r] ∧ t'.returns = s'.returns ++ [r] ∧
      t.phase = t'.phase ∧ t.lineCount = t'.lineCount ∧ t.matrix = t'.matrix ∧ t.rowOffsets = t'.rowOffsets ∧
      t.busWidth = s.busWidth ∧
      (r = .ok → t.displayOn = t'.displayOn ∧ t.cursorOn = t'.cursorOn ∧ t.blinkOn = t'.blinkOn ∧
        t.entryLtr = t'.entryLtr ∧ t.entryShift = t'.entryShift)

/-! ## Display requests -/

/-- R241: the DDRAM address is the clamped row's offset plus the column, mod 128; no field is written.
Model's choices: log 2, log 5, log 22. -/
def Obligations.SetCursorAddressesTheClampedRow : Prop :=
  ∀ (col row : Nat) (s : State) (n : LineCount) (t : RowOffsets), s.lineCount = some n → s.rowOffsets = some t →
    AnswersAt s (.setCursor col row) s
      (sendOps s.busWidth s.hasRw
        (0x80#8 ||| BitVec.ofNat 8
          (([t.r0, t.r1, t.r2, t.r3].getD (min (min row (4 - 1)) ((if n = .two then 2 else 1) - 1)) 0 + col) % 128))
        .low)

/-- R241 with R25 and R32, over every configured state: `set_cursor` addresses two rows only. With two lines every row but
row 0 is at DDRAM address 0x40 + col, and row 0, or every row with one line, at col, mod 128. In such a state it never
stops: Dropped, NotReady, Ok or LineWriteError.
Model's choices: log 2, log 5, log 22. -/
def Obligations.SetCursorReachesTwoRows : Prop :=
  ∀ (col row : Nat) (s : State), s.configured → s.phase = .ready →
    AnswersAt s (.setCursor col row) s
      (sendOps s.busWidth s.hasRw
        (BitVec.ofNat 8 (128 + (if s.lineCount = some .two ∧ row ≠ 0 then 0x40 + col else col) % 128)) .low)

/-- R242: `print` sends each byte of the text as a data byte, in order; no field is written.
Model's choices: log 2, log 5. -/
def Obligations.PrintSendsEachByteAsData : Prop :=
  ∀ (text : List Byte) (s : State),
    AnswersAt s (.print text) s (text.flatMap fun b => sendOps s.busWidth s.hasRw b .high)

/-- R243 and R244: `clear` sends 0x01 and `home` 0x02, each followed by the 2000 µs settle; no field is written.
Model's choices: log 2, log 5. -/
def Obligations.ClearAndHomeSettle : Prop :=
  ∀ s : State,
    AnswersAt s .clear s (sendOps s.busWidth s.hasRw 0x01#8 .low ++ [.sleep 2000]) ∧
    AnswersAt s .home s (sendOps s.busWidth s.hasRw 0x02#8 .low ++ [.sleep 2000])

/-- R245 to R250: each display setter sets its one flag to its fixed value and sends the whole DisplayControl byte of the
state after that.
Model's choices: log 2, log 5. -/
def Obligations.DisplaySettersResendDisplayControl : Prop :=
  ∀ (i : Instr) (s m : State),
    (i = .display ∧ m = { s with displayOn := true }) ∨ (i = .noDisplay ∧ m = { s with displayOn := false }) ∨
    (i = .cursor ∧ m = { s with cursorOn := true }) ∨ (i = .noCursor ∧ m = { s with cursorOn := false }) ∨
    (i = .blink ∧ m = { s with blinkOn := true }) ∨ (i = .noBlink ∧ m = { s with blinkOn := false }) →
    AnswersAt s i m
      (sendOps s.busWidth s.hasRw
        (BitVec.ofNat 8 (0x08 + 4 * m.displayOn.toNat + 2 * m.cursorOn.toNat + m.blinkOn.toNat)) .low)

/-- R251 to R254: each entry-mode setter sets its one flag to its fixed value and sends the whole EntryModeSet byte of
the state after that.
Model's choices: log 2, log 5, log 8. -/
def Obligations.EntrySettersResendEntryMode : Prop :=
  ∀ (i : Instr) (s m : State),
    (i = .leftToRight ∧ m = { s with entryLtr := true }) ∨ (i = .rightToLeft ∧ m = { s with entryLtr := false }) ∨
    (i = .autoscroll ∧ m = { s with entryShift := true }) ∨
    (i = .noAutoscroll ∧ m = { s with entryShift := false }) →
    AnswersAt s i m
      (sendOps s.busWidth s.hasRw (BitVec.ofNat 8 (0x04 + 2 * m.entryLtr.toNat + m.entryShift.toNat)) .low)

/-- R255 and R256: the scrolls send 0x18 and 0x1C and write no field.
Model's choices: log 2, log 5, log 8. -/
def Obligations.ScrollsSendTheDisplayShift : Prop :=
  ∀ s : State,
    AnswersAt s .scrollDisplayLeft s (sendOps s.busWidth s.hasRw 0x18#8 .low) ∧
    AnswersAt s .scrollDisplayRight s (sendOps s.busWidth s.hasRw 0x1C#8 .low)

/-- R257: `create_char` sends SetCGRAMAddress of the slot mod 8 and then the 8 bitmap bytes as data, unmodified and in
order; no field is written.
Model's choices: log 2, log 5. -/
def Obligations.CreateCharSendsSlotAndBitmap : Prop :=
  ∀ (slot : Nat) (b0 b1 b2 b3 b4 b5 b6 b7 : Byte) (s : State),
    AnswersAt s (.createChar slot [b0, b1, b2, b3, b4, b5, b6, b7]) s
      (sendOps s.busWidth s.hasRw (BitVec.ofNat 8 (0x40 + 8 * (slot % 8))) .low ++
        sendOps s.busWidth s.hasRw b0 .high ++ sendOps s.busWidth s.hasRw b1 .high ++
        sendOps s.busWidth s.hasRw b2 .high ++ sendOps s.busWidth s.hasRw b3 .high ++
        sendOps s.busWidth s.hasRw b4 .high ++ sendOps s.busWidth s.hasRw b5 .high ++
        sendOps s.busWidth s.hasRw b6 .high ++ sendOps s.busWidth s.hasRw b7 .high)

/-- A `create_char` whose bitmap is not 8 bytes is a call outside the table of R97: refused by name (log 14). -/
def Obligations.MalformedCreateCharIsRefused : Prop :=
  ∀ (slot : Nat) (bitmap : List Byte) (s : State), bitmap.length ≠ 8 →
    exec (.createChar slot bitmap) s = .refused .malformedCall

/-- Slots wrap mod 8 (R127): on a Ready engine a slot and the slot mod 8 lead to the same next state.
Model's choices: log 5. -/
def Obligations.CreateCharSlotsWrap : Prop :=
  ∀ (slot : Nat) (bitmap : List Byte) (s : State), bitmap.length = 8 → s.alive = true → s.phase = .ready →
    ∃ t, exec (.createChar slot bitmap) s = .next t ∧ exec (.createChar (slot % 8) bitmap) s = .next t

/-- R68, R240: a setter called twice sends the same events twice, and the second call changes nothing of the engine but
what it sends.
Model's choices: log 2. -/
def Obligations.SettersAreIdempotent : Prop :=
  ∀ (i : Instr) (s t u : State),
    i ∈ [.display, .noDisplay, .cursor, .noCursor, .blink, .noBlink, .leftToRight, .rightToLeft, .autoscroll,
      .noAutoscroll] →
    exec i s = .next t → t.returns = s.returns ++ [.ok] → exec i t = .next u → u.returns = t.returns ++ [.ok] →
    ∃ evs, t.trace = s.trace ++ evs ∧
      u.agrees { t with trace := t.trace ++ evs, returns := t.returns ++ [.ok] }

/-! ## The whole machine -/

/-- R240 over every request of the Ready class: an admitted and granted request delivers to the controller exactly the
bus words its rule gives, in order, each with its RS level, read from the latches of its own events (R69).
Model's choices: log 3, log 5, log 8. -/
def Obligations.AdmittedRequestDeliversItsWords : Prop :=
  ∀ (i : Instr) (s : State), needsReady i = true → i.wellFormed = true → fieldsSet i s → s.alive = true →
    s.phase = .ready → s.grants (countWrites (requestOps i (flagWrite i s))) →
    ∃ t evs, exec i s = .next t ∧ t.returns = s.returns ++ [.ok] ∧ t.trace = s.trace ++ evs ∧
      delivered s.busWidth (latches s.levels evs) = busWords i (flagWrite i s)

/-- R305: on an engine that is not alive every request, `begin` included, raises Dropped, emits no event and changes
nothing; its code is that of R300. (`construct` is no request on that engine: it makes a new one.)
Model's choices: log 2. -/
def Obligations.DroppedChangesNothing : Prop :=
  ∀ (i : Instr) (s : State), encode i = none → (∀ d, i ≠ .construct d) → i.wellFormed = true → s.alive = false →
    exec i s = .next (s.respond (.err (.dropped i))) ∧ (Error.dropped i).code = 17

/-- R304: on an engine that is alive and not Ready every request but `construct`, `begin` and `drop` raises NotReady with
the phase, emits no event and changes nothing; Dropped is checked first; its code is that of R300.
Model's choices: log 2. -/
def Obligations.NotReadyChangesNothing : Prop :=
  ∀ (i : Instr) (s : State), encode i = none → (∀ d, i ≠ .construct d) → (∀ c n m, i ≠ .beginInit c n m) →
    i ≠ .drop → i.wellFormed = true →
    (s.alive = false → exec i s = .next (s.respond (.err (.dropped i)))) ∧
    (s.alive = true → s.phase ≠ .ready → exec i s = .next (s.respond (.err (.notReady i s.phase)))) ∧
    (Error.notReady i s.phase).code = 16

/-- R303: whatever request returns a LineWriteError, its events end with the refused write, as many events as the
recorded index came before it and none of them was refused, the phase is Faulted, every line but the refused one, whose
level is left open, is at the level last driven on it, and the fields the request had written before keep their values:
for `begin`, those of the steps it had come to; its code is that of R300.
Model's choices: log 2, log 5. -/
def Obligations.LineWriteErrorIsPrecise : Prop :=
  ∀ (i : Instr) (s t : State) (l : Line) (v : Level) (k : Nat), i.wellFormed = true → exec i s = .next t →
    t.returns = s.returns ++ [.err (.lineWrite l v k)] →
    (Error.lineWrite l v k).code = 2 ∧ t.phase = .faulted ∧
    (∃ evs, t.trace = s.trace ++ evs ++ [.wBang l v] ∧ evs.length = k ∧ (∀ l' v', .wBang l' v' ∉ evs) ∧
      ∀ l', l' ≠ l → match lastWrite l' evs with
        | some (.w _ a) => t.levels.get l' = a
        | _ => t.levels.get l' = s.levels.get l') ∧
    ((∀ columns lines m, i ≠ .beginInit columns lines m) →
      t.displayOn = (flagWrite i s).displayOn ∧ t.cursorOn = (flagWrite i s).cursorOn ∧
      t.blinkOn = (flagWrite i s).blinkOn ∧ t.entryLtr = (flagWrite i s).entryLtr ∧
      t.entryShift = (flagWrite i s).entryShift) ∧
    (∀ columns lines m, i = .beginInit columns lines m → t.lineCount = some (linesOfRequest lines) ∧
      t.matrix = some (matrixOfRequest m (linesOfRequest lines)) ∧
      t.rowOffsets = some (RowOffsets.ofColumns columns) ∧
      (if k < (beginOpsFunction (initStep0 columns lines m s)).length
        then t.displayOn = s.displayOn ∧ t.cursorOn = s.cursorOn ∧ t.blinkOn = s.blinkOn
        else t.displayOn = true ∧ t.cursorOn = false ∧ t.blinkOn = false) ∧
      if k < (beginOpsFunction (initStep0 columns lines m s) ++ beginOpsDisplay (initStep0 columns lines m s)).length
        then t.entryLtr = s.entryLtr ∧ t.entryShift = s.entryShift
        else t.entryLtr = true ∧ t.entryShift = false)

/-- R97, R302: every instruction that answers a next state returns exactly one value, only adds to the trace, can have a
refused write only as its last event, and has one exactly when it returns LineWriteError; it takes nothing from the
port.
Model's choices: log 2, log 11. -/
def Obligations.OneReturnPerRequest : Prop :=
  ∀ (i : Instr) (s t : State), exec i s = .next t →
    ∃ evs r, t.trace = s.trace ++ evs ∧ t.returns = s.returns ++ [r] ∧ t.port = s.port ∧
      (∀ l v, (∃ k, r = .err (.lineWrite l v k)) ↔ .wBang l v ∈ evs) ∧
      ∀ l v, .wBang l v ∈ evs → ∃ pre, evs = pre ++ [.wBang l v]

/-- R36, the access table: which request writes which field, every other request leaving it as it was; `construct`, which
makes a new engine or leaves the engine in view alone, apart. That a failed construct leaves the engine in view alone and
that the lines of other instances stay theirs is log 6; the table words are instructions by log 3 and log 4.
Model's choices: log 3, log 4, log 6. -/
def Obligations.AccessTableHolds : Prop :=
  (∀ (i : Instr) (s t : State), (∀ d, i ≠ .construct d) → exec i s = .next t →
    t.pins = s.pins ∧ t.busWidth = s.busWidth ∧ t.hasRw = s.hasRw ∧ t.owned = s.owned ∧
    (i ≠ .drop → t.alive = s.alive) ∧ (i = .drop → t.alive = false) ∧
    ((∀ c n m, i ≠ .beginInit c n m) →
      t.lineCount = s.lineCount ∧ t.matrix = s.matrix ∧ t.rowOffsets = s.rowOffsets ∧
      (i ≠ .display → i ≠ .noDisplay → t.displayOn = s.displayOn) ∧
      (i ≠ .cursor → i ≠ .noCursor → t.cursorOn = s.cursorOn) ∧
      (i ≠ .blink → i ≠ .noBlink → t.blinkOn = s.blinkOn) ∧
      (i ≠ .leftToRight → i ≠ .rightToLeft → t.entryLtr = s.entryLtr) ∧
      (i ≠ .autoscroll → i ≠ .noAutoscroll → t.entryShift = s.entryShift) ∧
      (t.phase = s.phase ∨
        t.phase = .faulted ∧ ∃ l v k, t.returns = s.returns ++ [.err (.lineWrite l v k)])) ∧
    ∃ evs, t.trace = s.trace ++ evs ∧
      ∀ l, (∀ v, .w l v ∉ evs ∧ .wBang l v ∉ evs) → t.levels.get l = s.levels.get l) ∧
  ∀ (d : Binding) (s t : State), exec (.construct d) s = .next t →
    (t.returns = s.returns ++ [.ok] → t.alive = true ∧ t.phase = .poweredUnknown ∧ t.pins = d) ∧
    (t.returns ≠ s.returns ++ [.ok] → t.agrees { s with trace := t.trace, returns := t.returns })

/-- R37: no request but `construct` writes the bus width, none but `begin` writes the line count, the matrix or the row
offsets (`construct` makes a new engine, on which they are unset), and a `begin` rewrites them from its own arguments. -/
def Obligations.FunctionFieldsFixedByBegin : Prop :=
  (∀ (i : Instr) (s t : State), (∀ d, i ≠ .construct d) → exec i s = .next t →
    t.busWidth = s.busWidth ∧
    ((∀ c n m, i ≠ .beginInit c n m) →
      t.lineCount = s.lineCount ∧ t.matrix = s.matrix ∧ t.rowOffsets = s.rowOffsets)) ∧
  ∀ (columns lines : Nat) (m : Matrix) (s t : State), s.alive = true → exec (.beginInit columns lines m) s = .next t →
    t.lineCount = some (if lines > 1 then .two else .one) ∧
    t.matrix = some (if m = .m5x10 ∧ ¬ lines > 1 then .m5x10 else .m5x8) ∧
    t.rowOffsets = some ⟨0x00, 0x40, columns, 0x40 + columns⟩

/-- R33: the shadow of a line after a request, but `construct`, is what the request's events say of it: the level of the
last accepted write, or as before if it was not written; after a refused write nothing is said.
Model's choices: log 17, log 21. -/
def Obligations.ShadowFollowsTheTrace : Prop :=
  ∀ (i : Instr) (s t : State), (∀ d, i ≠ .construct d) → exec i s = .next t →
    ∃ evs, t.trace = s.trace ++ evs ∧ ∀ l,
      (lastWrite l evs = none → t.levels.get l = s.levels.get l) ∧
      ∀ v, lastWrite l evs = some (.w l v) → t.levels.get l = v

/-- R309: after a LineWriteError only `begin` and `drop` are accepted (`construct` makes another engine): every other
instruction, the table words included (log 3, log 4), is answered NotReady. `begin`, if its writes are granted, leads to
Ready; `drop` is recorded as Ok (log 11); and no other instruction ever leads to Ready.
Model's choices: log 2, log 3, log 4, log 5, log 11. -/
def Obligations.OnlyBeginLeadsToReady : Prop :=
  (∀ (i : Instr) (s : State), s.alive = true → s.phase = .faulted → i.wellFormed = true → (∀ d, i ≠ .construct d) →
    (∀ columns lines m, i ≠ .beginInit columns lines m) → i ≠ .drop →
    exec i s = .next (s.respond (.err (.notReady i .faulted)))) ∧
  (∀ s : State, s.alive = true → s.phase = .faulted →
    (∃ t, exec .drop s = .next t ∧ t.returns = s.returns ++ [.ok]) ∧
    ∀ columns lines m, s.grants (countWrites (beginOps (initStep0 columns lines m s))) →
      ∃ t, exec (.beginInit columns lines m) s = .next t ∧ t.phase = .ready ∧ t.returns = s.returns ++ [.ok]) ∧
  ∀ (i : Instr) (s t : State), exec i s = .next t → s.phase ≠ .ready → t.phase = .ready →
    ∃ columns lines m, i = .beginInit columns lines m

/-- R27: 5×10 only with one line. Every step keeps it; every `begin` that is admitted establishes it, whatever it was
before; and no other request but `construct` writes either field. -/
def Obligations.WideMatrixNeedsOneLine : Prop :=
  (∀ s t : State, s.matrixOk → step s = .next t → t.matrixOk) ∧
  (∀ (columns lines : Nat) (m : Matrix) (s t : State), s.alive = true →
    exec (.beginInit columns lines m) s = .next t → t.matrixOk) ∧
  ∀ (i : Instr) (s t : State), (∀ d, i ≠ .construct d) → (∀ c n m, i ≠ .beginInit c n m) → exec i s = .next t →
    t.matrix = s.matrix ∧ t.lineCount = s.lineCount

/-- R34: between requests that completed without error E is Low, and RW is Low when bound: every step keeps it. After
every request RS is at the level of its last bus word, or as it was if it sent none; and Low after `begin`.
Model's choices: log 3. -/
def Obligations.LinesAreIdleBetweenRequests : Prop :=
  (∀ s t : State, s.idleLevels → step s = .next t → t.idleLevels) ∧
  (∀ (i : Instr) (s t : State) (rs : Level) (b : Byte), needsReady i = true → i.wellFormed = true →
    exec i s = .next t → t.returns = s.returns ++ [.ok] →
    ((busWords i (flagWrite i s)).getLast? = some (rs, b) → t.levels.get .rs = rs) ∧
    (busWords i (flagWrite i s) = [] → t.levels.get .rs = s.levels.get .rs)) ∧
  ∀ (columns lines : Nat) (m : Matrix) (s t : State), exec (.beginInit columns lines m) s = .next t →
    t.returns = s.returns ++ [.ok] → t.levels.get .rs = .low

/-- The invariant between requests holds before any request (log 1). -/
def Obligations.ResetMeetsTheInvariant : Prop := State.reset.Inv

/-- Every step keeps the invariant between requests: R27, R34, R22 to R24, R32, R346, RS Low before the first begin, and the
phases of R30.
Model's choices: log 1, log 21. -/
def Obligations.EveryStepKeepsTheInvariant : Prop :=
  ∀ s t : State, s.Inv → step s = .next t → t.Inv

/-- The one fault of the model is that of `set_cursor` in a Ready state with an unset field (log 15): a state that is not
configured. So under the invariant no step ends in a fault (D25: a rule that would read an unset field is never reached).
Model's choices: log 15. -/
def Obligations.InvariantExcludesFaults : Prop :=
  (∀ (i : Instr) (s : State) (f : Fault), exec i s = .fault f →
    (∃ col row, i = .setCursor col row) ∧ s.alive = true ∧ s.phase = .ready ∧ ¬ s.configured) ∧
  ∀ (s : State) (f : Fault), s.Inv → step s ≠ .fault f

/-- R350: after every enable pulse of a request the bus stays idle at least 100 µs: each W(E, Low) that follows a
W(E, High) of the request is followed at once by such a sleep, in every run, failed ones included. -/
def Obligations.PulseMarginIsAlwaysKept : Prop :=
  ∀ (i : Instr) (s t : State), exec i s = .next t →
    ∃ evs, t.trace = s.trace ++ evs ∧ marginKept false evs = true

/-- R66: RW is never driven High, by any instruction, in any run.
Model's choices: log 17. -/
def Obligations.RwIsNeverDrivenHigh : Prop :=
  ∀ (i : Instr) (s t : State), exec i s = .next t →
    ∃ evs, t.trace = s.trace ++ evs ∧ Event.w .rw .high ∉ evs ∧ Event.wBang .rw .high ∉ evs

/-- R355: no request but `begin` sends FunctionSet, however the request ends. What the others deliver holds no byte with
RS = 0 whose highest set bit is bit 5; the raw `command` sends what it is given (R356), and so does a bus word given as an
instruction.
Model's choices: log 3, log 8. -/
def Obligations.NoFunctionSetOutsideBegin : Prop :=
  ∀ (i : Instr) (s t : State) (b : Byte), encode i = none → (∀ c, i ≠ .command c) →
    (∀ columns lines m, i ≠ .beginInit columns lines m) → exec i s = .next t →
    ∃ evs, t.trace = s.trace ++ evs ∧
      ((.low, b) ∈ delivered s.busWidth (latches s.levels evs) → b.toNat.log2 ≠ 5)

/-- R361: the requested time of each request that returns Ok, in W4 and in W8.
Model's choices: log 10. -/
def Obligations.RequestedTimes : Prop :=
  ∀ (i : Instr) (s t : State), exec i s = .next t → t.returns = s.returns ++ [.ok] →
    ∃ evs, t.trace = s.trace ++ evs ∧
      (∀ c n m, i = .beginInit c n m → requestedSleep evs = if s.busWidth = .w4 then 102874 else 57364) ∧
      (((∃ b, i = .command b ∨ i = .write b) ∨ (∃ c r, i = .setCursor c r) ∨
        i ∈ [.display, .noDisplay, .cursor, .noCursor, .blink, .noBlink, .leftToRight, .rightToLeft, .autoscroll,
          .noAutoscroll, .scrollDisplayLeft, .scrollDisplayRight]) →
        requestedSleep evs = if s.busWidth = .w4 then 204 else 102) ∧
      ((i = .clear ∨ i = .home) → requestedSleep evs = if s.busWidth = .w4 then 2204 else 2102) ∧
      (∀ text, i = .print text → requestedSleep evs = (if s.busWidth = .w4 then 204 else 102) * text.length) ∧
      (∀ slot bitmap, i = .createChar slot bitmap →
        requestedSleep evs = if s.busWidth = .w4 then 1836 else 918) ∧
      (((∃ d, i = .construct d) ∨ i = .drop) → requestedSleep evs = 0)
end

