-- ==== Sys2Proof/Laws/Lines.lean ====
section
/-! SUPPORT. Reading and writing one line of the shadow: a read after a write of the same line gives the level written,
and every other line is left alone (R33). -/

namespace Sys2Proof

@[simp] theorem Data8.get_set_same {α : Type} (d : Data8 α) (k : Fin 8) (a : α) : (d.set k a).get k = a := by
  match k with
  | 0 | 1 | 2 | 3 | 4 | 5 | 6 | 7 => rfl

theorem Data8.get_set_other {α : Type} (d : Data8 α) {j k : Fin 8} (h : j ≠ k) (a : α) :
    (d.set k a).get j = d.get j := by
  revert h
  match k with
  | 0 | 1 | 2 | 3 | 4 | 5 | 6 | 7 =>
    match j with
    | 0 | 1 | 2 | 3 | 4 | 5 | 6 | 7 => first | (intro h; exact absurd rfl h) | (intro; rfl)

namespace Machine

@[simp] theorem Levels.get_set_same (v : Levels) (l : Line) (a : Level) : (v.set l a).get l = a := by
  cases l <;> simp [Levels.set, Levels.get]

theorem Levels.get_set_other (v : Levels) {j l : Line} (h : j ≠ l) (a : Level) : (v.set l a).get j = v.get j := by
  cases l <;> cases j <;> simp_all [Levels.set, Levels.get]
  exact Data8.get_set_other _ h _

theorem Levels.get_set (v : Levels) (j l : Line) (a : Level) :
    (v.set l a).get j = if j = l then a else v.get j := by
  split
  · subst_vars; simp
  · exact Levels.get_set_other v ‹_› a

/-- A shadow is its entries. -/
theorem Levels.ext_get {a b : Levels} (h : ∀ l, a.get l = b.get l) : a = b := by
  have h0 := h (.db 0)
  have h1 := h (.db 1)
  have h2 := h (.db 2)
  have h3 := h (.db 3)
  have h4 := h (.db 4)
  have h5 := h (.db 5)
  have h6 := h (.db 6)
  have h7 := h (.db 7)
  have hs := h .rs
  have hw := h .rw
  have he := h .e
  obtain ⟨rs, rw, e, ⟨d0, d1, d2, d3, d4, d5, d6, d7⟩⟩ := a
  obtain ⟨rs', rw', e', ⟨c0, c1, c2, c3, c4, c5, c6, c7⟩⟩ := b
  simp_all [Levels.get, Data8.get]

@[simp] theorem Levels.get_allLow (l : Line) : Levels.allLow.get l = .low := by
  cases l with
  | rs => rfl
  | rw => rfl
  | e => rfl
  | db k =>
    match k with
    | 0 | 1 | 2 | 3 | 4 | 5 | 6 | 7 => rfl

/-- A list of transfers that never writes line `l` leaves its shadow alone. -/
theorem driven_get_of_not_written {l : Line} : ∀ {ops : List BusOp} {v : Levels},
    (∀ a, BusOp.write l a ∉ ops) → (driven ops v).get l = v.get l
  | [], _, _ => rfl
  | .sleep _ :: rest, v, h => driven_get_of_not_written (ops := rest) (v := v) fun a ha => h a (by simp [ha])
  | .write l' a' :: rest, v, h => by
    have hl : l ≠ l' := by
      rintro rfl
      exact h a' (by simp)
    rw [driven, driven_get_of_not_written fun a ha => h a (by simp [ha]), Levels.get_set_other v hl]

@[simp] theorem driven_append (a b : List BusOp) (v : Levels) : driven (a ++ b) v = driven b (driven a v) := by
  induction a generalizing v with
  | nil => rfl
  | cons op rest ih => cases op <;> simp [driven, ih]

/-- A list of transfers that writes only `a` on line `l` leaves it at `a` if it was there before. -/
theorem driven_get_of_all_writes {l : Line} {a : Level} : ∀ {ops : List BusOp} {v : Levels},
    (∀ b, BusOp.write l b ∈ ops → b = a) → v.get l = a → (driven ops v).get l = a
  | [], _, _, hv => hv
  | .sleep _ :: rest, v, h, hv => driven_get_of_all_writes (ops := rest) (fun b hb => h b (by simp [hb])) hv
  | .write l' a' :: rest, v, h, hv => by
    refine driven_get_of_all_writes (ops := rest) (fun b hb => h b (by simp [hb])) ?_
    by_cases hl : l = l'
    · subst hl
      simpa using h a' (by simp)
    · rwa [Levels.get_set_other v hl]

end Machine
end Sys2Proof
end

