-- ==== Sys2Proof/Laws/State.lean ====
section
/-! SUPPORT. One lemma per field and update of the state, so that no proof unfolds a record update. -/

namespace Sys2Proof.Machine

variable (s : State)

/-! ### emit -/

@[simp] theorem State.emit_pins (e : Event) : (s.emit e).pins = s.pins := rfl
@[simp] theorem State.emit_busWidth (e : Event) : (s.emit e).busWidth = s.busWidth := rfl
@[simp] theorem State.emit_hasRw (e : Event) : (s.emit e).hasRw = s.hasRw := rfl
@[simp] theorem State.emit_lineCount (e : Event) : (s.emit e).lineCount = s.lineCount := rfl
@[simp] theorem State.emit_matrix (e : Event) : (s.emit e).matrix = s.matrix := rfl
@[simp] theorem State.emit_displayOn (e : Event) : (s.emit e).displayOn = s.displayOn := rfl
@[simp] theorem State.emit_cursorOn (e : Event) : (s.emit e).cursorOn = s.cursorOn := rfl
@[simp] theorem State.emit_blinkOn (e : Event) : (s.emit e).blinkOn = s.blinkOn := rfl
@[simp] theorem State.emit_entryLtr (e : Event) : (s.emit e).entryLtr = s.entryLtr := rfl
@[simp] theorem State.emit_entryShift (e : Event) : (s.emit e).entryShift = s.entryShift := rfl
@[simp] theorem State.emit_phase (e : Event) : (s.emit e).phase = s.phase := rfl
@[simp] theorem State.emit_alive (e : Event) : (s.emit e).alive = s.alive := rfl
@[simp] theorem State.emit_rowOffsets (e : Event) : (s.emit e).rowOffsets = s.rowOffsets := rfl
@[simp] theorem State.emit_levels (e : Event) : (s.emit e).levels = s.levels := rfl
@[simp] theorem State.emit_pos (e : Event) : (s.emit e).pos = s.pos + 1 := rfl
@[simp] theorem State.emit_owned (e : Event) : (s.emit e).owned = s.owned := rfl
@[simp] theorem State.emit_port (e : Event) : (s.emit e).port = s.port := rfl
@[simp] theorem State.emit_answers (e : Event) : (s.emit e).answers = s.answers := rfl
@[simp] theorem State.emit_draws (e : Event) : (s.emit e).draws = s.draws := rfl
@[simp] theorem State.emit_trace (e : Event) : (s.emit e).trace = s.trace ++ [e] := rfl
@[simp] theorem State.emit_returns (e : Event) : (s.emit e).returns = s.returns := rfl

/-! ### setLevel -/

@[simp] theorem State.setLevel_pins (l : Line) (v : Level) : (s.setLevel l v).pins = s.pins := rfl
@[simp] theorem State.setLevel_busWidth (l : Line) (v : Level) : (s.setLevel l v).busWidth = s.busWidth := rfl
@[simp] theorem State.setLevel_hasRw (l : Line) (v : Level) : (s.setLevel l v).hasRw = s.hasRw := rfl
@[simp] theorem State.setLevel_lineCount (l : Line) (v : Level) : (s.setLevel l v).lineCount = s.lineCount := rfl
@[simp] theorem State.setLevel_matrix (l : Line) (v : Level) : (s.setLevel l v).matrix = s.matrix := rfl
@[simp] theorem State.setLevel_displayOn (l : Line) (v : Level) : (s.setLevel l v).displayOn = s.displayOn := rfl
@[simp] theorem State.setLevel_cursorOn (l : Line) (v : Level) : (s.setLevel l v).cursorOn = s.cursorOn := rfl
@[simp] theorem State.setLevel_blinkOn (l : Line) (v : Level) : (s.setLevel l v).blinkOn = s.blinkOn := rfl
@[simp] theorem State.setLevel_entryLtr (l : Line) (v : Level) : (s.setLevel l v).entryLtr = s.entryLtr := rfl
@[simp] theorem State.setLevel_entryShift (l : Line) (v : Level) : (s.setLevel l v).entryShift = s.entryShift := rfl
@[simp] theorem State.setLevel_phase (l : Line) (v : Level) : (s.setLevel l v).phase = s.phase := rfl
@[simp] theorem State.setLevel_alive (l : Line) (v : Level) : (s.setLevel l v).alive = s.alive := rfl
@[simp] theorem State.setLevel_rowOffsets (l : Line) (v : Level) : (s.setLevel l v).rowOffsets = s.rowOffsets := rfl
@[simp] theorem State.setLevel_levels (l : Line) (v : Level) : (s.setLevel l v).levels = s.levels.set l v := rfl
@[simp] theorem State.setLevel_pos (l : Line) (v : Level) : (s.setLevel l v).pos = s.pos := rfl
@[simp] theorem State.setLevel_owned (l : Line) (v : Level) : (s.setLevel l v).owned = s.owned := rfl
@[simp] theorem State.setLevel_port (l : Line) (v : Level) : (s.setLevel l v).port = s.port := rfl
@[simp] theorem State.setLevel_answers (l : Line) (v : Level) : (s.setLevel l v).answers = s.answers := rfl
@[simp] theorem State.setLevel_draws (l : Line) (v : Level) : (s.setLevel l v).draws = s.draws := rfl
@[simp] theorem State.setLevel_trace (l : Line) (v : Level) : (s.setLevel l v).trace = s.trace := rfl
@[simp] theorem State.setLevel_returns (l : Line) (v : Level) : (s.setLevel l v).returns = s.returns := rfl

/-! ### setPhase -/

@[simp] theorem State.setPhase_pins (p : Phase) : (s.setPhase p).pins = s.pins := rfl
@[simp] theorem State.setPhase_busWidth (p : Phase) : (s.setPhase p).busWidth = s.busWidth := rfl
@[simp] theorem State.setPhase_hasRw (p : Phase) : (s.setPhase p).hasRw = s.hasRw := rfl
@[simp] theorem State.setPhase_lineCount (p : Phase) : (s.setPhase p).lineCount = s.lineCount := rfl
@[simp] theorem State.setPhase_matrix (p : Phase) : (s.setPhase p).matrix = s.matrix := rfl
@[simp] theorem State.setPhase_displayOn (p : Phase) : (s.setPhase p).displayOn = s.displayOn := rfl
@[simp] theorem State.setPhase_cursorOn (p : Phase) : (s.setPhase p).cursorOn = s.cursorOn := rfl
@[simp] theorem State.setPhase_blinkOn (p : Phase) : (s.setPhase p).blinkOn = s.blinkOn := rfl
@[simp] theorem State.setPhase_entryLtr (p : Phase) : (s.setPhase p).entryLtr = s.entryLtr := rfl
@[simp] theorem State.setPhase_entryShift (p : Phase) : (s.setPhase p).entryShift = s.entryShift := rfl
@[simp] theorem State.setPhase_phase (p : Phase) : (s.setPhase p).phase = p := rfl
@[simp] theorem State.setPhase_alive (p : Phase) : (s.setPhase p).alive = s.alive := rfl
@[simp] theorem State.setPhase_rowOffsets (p : Phase) : (s.setPhase p).rowOffsets = s.rowOffsets := rfl
@[simp] theorem State.setPhase_levels (p : Phase) : (s.setPhase p).levels = s.levels := rfl
@[simp] theorem State.setPhase_pos (p : Phase) : (s.setPhase p).pos = s.pos := rfl
@[simp] theorem State.setPhase_owned (p : Phase) : (s.setPhase p).owned = s.owned := rfl
@[simp] theorem State.setPhase_port (p : Phase) : (s.setPhase p).port = s.port := rfl
@[simp] theorem State.setPhase_answers (p : Phase) : (s.setPhase p).answers = s.answers := rfl
@[simp] theorem State.setPhase_draws (p : Phase) : (s.setPhase p).draws = s.draws := rfl
@[simp] theorem State.setPhase_trace (p : Phase) : (s.setPhase p).trace = s.trace := rfl
@[simp] theorem State.setPhase_returns (p : Phase) : (s.setPhase p).returns = s.returns := rfl

/-! ### respond -/

@[simp] theorem State.respond_pins (r : Result) : (s.respond r).pins = s.pins := rfl
@[simp] theorem State.respond_busWidth (r : Result) : (s.respond r).busWidth = s.busWidth := rfl
@[simp] theorem State.respond_hasRw (r : Result) : (s.respond r).hasRw = s.hasRw := rfl
@[simp] theorem State.respond_lineCount (r : Result) : (s.respond r).lineCount = s.lineCount := rfl
@[simp] theorem State.respond_matrix (r : Result) : (s.respond r).matrix = s.matrix := rfl
@[simp] theorem State.respond_displayOn (r : Result) : (s.respond r).displayOn = s.displayOn := rfl
@[simp] theorem State.respond_cursorOn (r : Result) : (s.respond r).cursorOn = s.cursorOn := rfl
@[simp] theorem State.respond_blinkOn (r : Result) : (s.respond r).blinkOn = s.blinkOn := rfl
@[simp] theorem State.respond_entryLtr (r : Result) : (s.respond r).entryLtr = s.entryLtr := rfl
@[simp] theorem State.respond_entryShift (r : Result) : (s.respond r).entryShift = s.entryShift := rfl
@[simp] theorem State.respond_phase (r : Result) : (s.respond r).phase = s.phase := rfl
@[simp] theorem State.respond_alive (r : Result) : (s.respond r).alive = s.alive := rfl
@[simp] theorem State.respond_rowOffsets (r : Result) : (s.respond r).rowOffsets = s.rowOffsets := rfl
@[simp] theorem State.respond_levels (r : Result) : (s.respond r).levels = s.levels := rfl
@[simp] theorem State.respond_pos (r : Result) : (s.respond r).pos = s.pos := rfl
@[simp] theorem State.respond_owned (r : Result) : (s.respond r).owned = s.owned := rfl
@[simp] theorem State.respond_port (r : Result) : (s.respond r).port = s.port := rfl
@[simp] theorem State.respond_answers (r : Result) : (s.respond r).answers = s.answers := rfl
@[simp] theorem State.respond_draws (r : Result) : (s.respond r).draws = s.draws := rfl
@[simp] theorem State.respond_trace (r : Result) : (s.respond r).trace = s.trace := rfl
@[simp] theorem State.respond_returns (r : Result) : (s.respond r).returns = s.returns ++ [r] := rfl

/-! ### setPos -/

@[simp] theorem State.setPos_pins (n : Nat) : (s.setPos n).pins = s.pins := rfl
@[simp] theorem State.setPos_busWidth (n : Nat) : (s.setPos n).busWidth = s.busWidth := rfl
@[simp] theorem State.setPos_hasRw (n : Nat) : (s.setPos n).hasRw = s.hasRw := rfl
@[simp] theorem State.setPos_lineCount (n : Nat) : (s.setPos n).lineCount = s.lineCount := rfl
@[simp] theorem State.setPos_matrix (n : Nat) : (s.setPos n).matrix = s.matrix := rfl
@[simp] theorem State.setPos_displayOn (n : Nat) : (s.setPos n).displayOn = s.displayOn := rfl
@[simp] theorem State.setPos_cursorOn (n : Nat) : (s.setPos n).cursorOn = s.cursorOn := rfl
@[simp] theorem State.setPos_blinkOn (n : Nat) : (s.setPos n).blinkOn = s.blinkOn := rfl
@[simp] theorem State.setPos_entryLtr (n : Nat) : (s.setPos n).entryLtr = s.entryLtr := rfl
@[simp] theorem State.setPos_entryShift (n : Nat) : (s.setPos n).entryShift = s.entryShift := rfl
@[simp] theorem State.setPos_phase (n : Nat) : (s.setPos n).phase = s.phase := rfl
@[simp] theorem State.setPos_alive (n : Nat) : (s.setPos n).alive = s.alive := rfl
@[simp] theorem State.setPos_rowOffsets (n : Nat) : (s.setPos n).rowOffsets = s.rowOffsets := rfl
@[simp] theorem State.setPos_levels (n : Nat) : (s.setPos n).levels = s.levels := rfl
@[simp] theorem State.setPos_pos (n : Nat) : (s.setPos n).pos = n := rfl
@[simp] theorem State.setPos_owned (n : Nat) : (s.setPos n).owned = s.owned := rfl
@[simp] theorem State.setPos_port (n : Nat) : (s.setPos n).port = s.port := rfl
@[simp] theorem State.setPos_answers (n : Nat) : (s.setPos n).answers = s.answers := rfl
@[simp] theorem State.setPos_draws (n : Nat) : (s.setPos n).draws = s.draws := rfl
@[simp] theorem State.setPos_trace (n : Nat) : (s.setPos n).trace = s.trace := rfl
@[simp] theorem State.setPos_returns (n : Nat) : (s.setPos n).returns = s.returns := rfl

/-! ### setDisplay -/

@[simp] theorem State.setDisplay_pins (v : Bool) : (s.setDisplay v).pins = s.pins := rfl
@[simp] theorem State.setDisplay_busWidth (v : Bool) : (s.setDisplay v).busWidth = s.busWidth := rfl
@[simp] theorem State.setDisplay_hasRw (v : Bool) : (s.setDisplay v).hasRw = s.hasRw := rfl
@[simp] theorem State.setDisplay_lineCount (v : Bool) : (s.setDisplay v).lineCount = s.lineCount := rfl
@[simp] theorem State.setDisplay_matrix (v : Bool) : (s.setDisplay v).matrix = s.matrix := rfl
@[simp] theorem State.setDisplay_displayOn (v : Bool) : (s.setDisplay v).displayOn = v := rfl
@[simp] theorem State.setDisplay_cursorOn (v : Bool) : (s.setDisplay v).cursorOn = s.cursorOn := rfl
@[simp] theorem State.setDisplay_blinkOn (v : Bool) : (s.setDisplay v).blinkOn = s.blinkOn := rfl
@[simp] theorem State.setDisplay_entryLtr (v : Bool) : (s.setDisplay v).entryLtr = s.entryLtr := rfl
@[simp] theorem State.setDisplay_entryShift (v : Bool) : (s.setDisplay v).entryShift = s.entryShift := rfl
@[simp] theorem State.setDisplay_phase (v : Bool) : (s.setDisplay v).phase = s.phase := rfl
@[simp] theorem State.setDisplay_alive (v : Bool) : (s.setDisplay v).alive = s.alive := rfl
@[simp] theorem State.setDisplay_rowOffsets (v : Bool) : (s.setDisplay v).rowOffsets = s.rowOffsets := rfl
@[simp] theorem State.setDisplay_levels (v : Bool) : (s.setDisplay v).levels = s.levels := rfl
@[simp] theorem State.setDisplay_pos (v : Bool) : (s.setDisplay v).pos = s.pos := rfl
@[simp] theorem State.setDisplay_owned (v : Bool) : (s.setDisplay v).owned = s.owned := rfl
@[simp] theorem State.setDisplay_port (v : Bool) : (s.setDisplay v).port = s.port := rfl
@[simp] theorem State.setDisplay_answers (v : Bool) : (s.setDisplay v).answers = s.answers := rfl
@[simp] theorem State.setDisplay_draws (v : Bool) : (s.setDisplay v).draws = s.draws := rfl
@[simp] theorem State.setDisplay_trace (v : Bool) : (s.setDisplay v).trace = s.trace := rfl
@[simp] theorem State.setDisplay_returns (v : Bool) : (s.setDisplay v).returns = s.returns := rfl

/-! ### setCursorOn -/

@[simp] theorem State.setCursorOn_pins (v : Bool) : (s.setCursorOn v).pins = s.pins := rfl
@[simp] theorem State.setCursorOn_busWidth (v : Bool) : (s.setCursorOn v).busWidth = s.busWidth := rfl
@[simp] theorem State.setCursorOn_hasRw (v : Bool) : (s.setCursorOn v).hasRw = s.hasRw := rfl
@[simp] theorem State.setCursorOn_lineCount (v : Bool) : (s.setCursorOn v).lineCount = s.lineCount := rfl
@[simp] theorem State.setCursorOn_matrix (v : Bool) : (s.setCursorOn v).matrix = s.matrix := rfl
@[simp] theorem State.setCursorOn_displayOn (v : Bool) : (s.setCursorOn v).displayOn = s.displayOn := rfl
@[simp] theorem State.setCursorOn_cursorOn (v : Bool) : (s.setCursorOn v).cursorOn = v := rfl
@[simp] theorem State.setCursorOn_blinkOn (v : Bool) : (s.setCursorOn v).blinkOn = s.blinkOn := rfl
@[simp] theorem State.setCursorOn_entryLtr (v : Bool) : (s.setCursorOn v).entryLtr = s.entryLtr := rfl
@[simp] theorem State.setCursorOn_entryShift (v : Bool) : (s.setCursorOn v).entryShift = s.entryShift := rfl
@[simp] theorem State.setCursorOn_phase (v : Bool) : (s.setCursorOn v).phase = s.phase := rfl
@[simp] theorem State.setCursorOn_alive (v : Bool) : (s.setCursorOn v).alive = s.alive := rfl
@[simp] theorem State.setCursorOn_rowOffsets (v : Bool) : (s.setCursorOn v).rowOffsets = s.rowOffsets := rfl
@[simp] theorem State.setCursorOn_levels (v : Bool) : (s.setCursorOn v).levels = s.levels := rfl
@[simp] theorem State.setCursorOn_pos (v : Bool) : (s.setCursorOn v).pos = s.pos := rfl
@[simp] theorem State.setCursorOn_owned (v : Bool) : (s.setCursorOn v).owned = s.owned := rfl
@[simp] theorem State.setCursorOn_port (v : Bool) : (s.setCursorOn v).port = s.port := rfl
@[simp] theorem State.setCursorOn_answers (v : Bool) : (s.setCursorOn v).answers = s.answers := rfl
@[simp] theorem State.setCursorOn_draws (v : Bool) : (s.setCursorOn v).draws = s.draws := rfl
@[simp] theorem State.setCursorOn_trace (v : Bool) : (s.setCursorOn v).trace = s.trace := rfl
@[simp] theorem State.setCursorOn_returns (v : Bool) : (s.setCursorOn v).returns = s.returns := rfl

/-! ### setBlink -/

@[simp] theorem State.setBlink_pins (v : Bool) : (s.setBlink v).pins = s.pins := rfl
@[simp] theorem State.setBlink_busWidth (v : Bool) : (s.setBlink v).busWidth = s.busWidth := rfl
@[simp] theorem State.setBlink_hasRw (v : Bool) : (s.setBlink v).hasRw = s.hasRw := rfl
@[simp] theorem State.setBlink_lineCount (v : Bool) : (s.setBlink v).lineCount = s.lineCount := rfl
@[simp] theorem State.setBlink_matrix (v : Bool) : (s.setBlink v).matrix = s.matrix := rfl
@[simp] theorem State.setBlink_displayOn (v : Bool) : (s.setBlink v).displayOn = s.displayOn := rfl
@[simp] theorem State.setBlink_cursorOn (v : Bool) : (s.setBlink v).cursorOn = s.cursorOn := rfl
@[simp] theorem State.setBlink_blinkOn (v : Bool) : (s.setBlink v).blinkOn = v := rfl
@[simp] theorem State.setBlink_entryLtr (v : Bool) : (s.setBlink v).entryLtr = s.entryLtr := rfl
@[simp] theorem State.setBlink_entryShift (v : Bool) : (s.setBlink v).entryShift = s.entryShift := rfl
@[simp] theorem State.setBlink_phase (v : Bool) : (s.setBlink v).phase = s.phase := rfl
@[simp] theorem State.setBlink_alive (v : Bool) : (s.setBlink v).alive = s.alive := rfl
@[simp] theorem State.setBlink_rowOffsets (v : Bool) : (s.setBlink v).rowOffsets = s.rowOffsets := rfl
@[simp] theorem State.setBlink_levels (v : Bool) : (s.setBlink v).levels = s.levels := rfl
@[simp] theorem State.setBlink_pos (v : Bool) : (s.setBlink v).pos = s.pos := rfl
@[simp] theorem State.setBlink_owned (v : Bool) : (s.setBlink v).owned = s.owned := rfl
@[simp] theorem State.setBlink_port (v : Bool) : (s.setBlink v).port = s.port := rfl
@[simp] theorem State.setBlink_answers (v : Bool) : (s.setBlink v).answers = s.answers := rfl
@[simp] theorem State.setBlink_draws (v : Bool) : (s.setBlink v).draws = s.draws := rfl
@[simp] theorem State.setBlink_trace (v : Bool) : (s.setBlink v).trace = s.trace := rfl
@[simp] theorem State.setBlink_returns (v : Bool) : (s.setBlink v).returns = s.returns := rfl

/-! ### setLtr -/

@[simp] theorem State.setLtr_pins (v : Bool) : (s.setLtr v).pins = s.pins := rfl
@[simp] theorem State.setLtr_busWidth (v : Bool) : (s.setLtr v).busWidth = s.busWidth := rfl
@[simp] theorem State.setLtr_hasRw (v : Bool) : (s.setLtr v).hasRw = s.hasRw := rfl
@[simp] theorem State.setLtr_lineCount (v : Bool) : (s.setLtr v).lineCount = s.lineCount := rfl
@[simp] theorem State.setLtr_matrix (v : Bool) : (s.setLtr v).matrix = s.matrix := rfl
@[simp] theorem State.setLtr_displayOn (v : Bool) : (s.setLtr v).displayOn = s.displayOn := rfl
@[simp] theorem State.setLtr_cursorOn (v : Bool) : (s.setLtr v).cursorOn = s.cursorOn := rfl
@[simp] theorem State.setLtr_blinkOn (v : Bool) : (s.setLtr v).blinkOn = s.blinkOn := rfl
@[simp] theorem State.setLtr_entryLtr (v : Bool) : (s.setLtr v).entryLtr = v := rfl
@[simp] theorem State.setLtr_entryShift (v : Bool) : (s.setLtr v).entryShift = s.entryShift := rfl
@[simp] theorem State.setLtr_phase (v : Bool) : (s.setLtr v).phase = s.phase := rfl
@[simp] theorem State.setLtr_alive (v : Bool) : (s.setLtr v).alive = s.alive := rfl
@[simp] theorem State.setLtr_rowOffsets (v : Bool) : (s.setLtr v).rowOffsets = s.rowOffsets := rfl
@[simp] theorem State.setLtr_levels (v : Bool) : (s.setLtr v).levels = s.levels := rfl
@[simp] theorem State.setLtr_pos (v : Bool) : (s.setLtr v).pos = s.pos := rfl
@[simp] theorem State.setLtr_owned (v : Bool) : (s.setLtr v).owned = s.owned := rfl
@[simp] theorem State.setLtr_port (v : Bool) : (s.setLtr v).port = s.port := rfl
@[simp] theorem State.setLtr_answers (v : Bool) : (s.setLtr v).answers = s.answers := rfl
@[simp] theorem State.setLtr_draws (v : Bool) : (s.setLtr v).draws = s.draws := rfl
@[simp] theorem State.setLtr_trace (v : Bool) : (s.setLtr v).trace = s.trace := rfl
@[simp] theorem State.setLtr_returns (v : Bool) : (s.setLtr v).returns = s.returns := rfl

/-! ### setShift -/

@[simp] theorem State.setShift_pins (v : Bool) : (s.setShift v).pins = s.pins := rfl
@[simp] theorem State.setShift_busWidth (v : Bool) : (s.setShift v).busWidth = s.busWidth := rfl
@[simp] theorem State.setShift_hasRw (v : Bool) : (s.setShift v).hasRw = s.hasRw := rfl
@[simp] theorem State.setShift_lineCount (v : Bool) : (s.setShift v).lineCount = s.lineCount := rfl
@[simp] theorem State.setShift_matrix (v : Bool) : (s.setShift v).matrix = s.matrix := rfl
@[simp] theorem State.setShift_displayOn (v : Bool) : (s.setShift v).displayOn = s.displayOn := rfl
@[simp] theorem State.setShift_cursorOn (v : Bool) : (s.setShift v).cursorOn = s.cursorOn := rfl
@[simp] theorem State.setShift_blinkOn (v : Bool) : (s.setShift v).blinkOn = s.blinkOn := rfl
@[simp] theorem State.setShift_entryLtr (v : Bool) : (s.setShift v).entryLtr = s.entryLtr := rfl
@[simp] theorem State.setShift_entryShift (v : Bool) : (s.setShift v).entryShift = v := rfl
@[simp] theorem State.setShift_phase (v : Bool) : (s.setShift v).phase = s.phase := rfl
@[simp] theorem State.setShift_alive (v : Bool) : (s.setShift v).alive = s.alive := rfl
@[simp] theorem State.setShift_rowOffsets (v : Bool) : (s.setShift v).rowOffsets = s.rowOffsets := rfl
@[simp] theorem State.setShift_levels (v : Bool) : (s.setShift v).levels = s.levels := rfl
@[simp] theorem State.setShift_pos (v : Bool) : (s.setShift v).pos = s.pos := rfl
@[simp] theorem State.setShift_owned (v : Bool) : (s.setShift v).owned = s.owned := rfl
@[simp] theorem State.setShift_port (v : Bool) : (s.setShift v).port = s.port := rfl
@[simp] theorem State.setShift_answers (v : Bool) : (s.setShift v).answers = s.answers := rfl
@[simp] theorem State.setShift_draws (v : Bool) : (s.setShift v).draws = s.draws := rfl
@[simp] theorem State.setShift_trace (v : Bool) : (s.setShift v).trace = s.trace := rfl
@[simp] theorem State.setShift_returns (v : Bool) : (s.setShift v).returns = s.returns := rfl

/-! ### drawn -/

@[simp] theorem State.drawn_pins (n : Nat) : (s.drawn n).pins = s.pins := rfl
@[simp] theorem State.drawn_busWidth (n : Nat) : (s.drawn n).busWidth = s.busWidth := rfl
@[simp] theorem State.drawn_hasRw (n : Nat) : (s.drawn n).hasRw = s.hasRw := rfl
@[simp] theorem State.drawn_lineCount (n : Nat) : (s.drawn n).lineCount = s.lineCount := rfl
@[simp] theorem State.drawn_matrix (n : Nat) : (s.drawn n).matrix = s.matrix := rfl
@[simp] theorem State.drawn_displayOn (n : Nat) : (s.drawn n).displayOn = s.displayOn := rfl
@[simp] theorem State.drawn_cursorOn (n : Nat) : (s.drawn n).cursorOn = s.cursorOn := rfl
@[simp] theorem State.drawn_blinkOn (n : Nat) : (s.drawn n).blinkOn = s.blinkOn := rfl
@[simp] theorem State.drawn_entryLtr (n : Nat) : (s.drawn n).entryLtr = s.entryLtr := rfl
@[simp] theorem State.drawn_entryShift (n : Nat) : (s.drawn n).entryShift = s.entryShift := rfl
@[simp] theorem State.drawn_phase (n : Nat) : (s.drawn n).phase = s.phase := rfl
@[simp] theorem State.drawn_alive (n : Nat) : (s.drawn n).alive = s.alive := rfl
@[simp] theorem State.drawn_rowOffsets (n : Nat) : (s.drawn n).rowOffsets = s.rowOffsets := rfl
@[simp] theorem State.drawn_levels (n : Nat) : (s.drawn n).levels = s.levels := rfl
@[simp] theorem State.drawn_pos (n : Nat) : (s.drawn n).pos = s.pos := rfl
@[simp] theorem State.drawn_owned (n : Nat) : (s.drawn n).owned = s.owned := rfl
@[simp] theorem State.drawn_port (n : Nat) : (s.drawn n).port = s.port := rfl
@[simp] theorem State.drawn_answers (n : Nat) : (s.drawn n).answers = s.answers.drop n := rfl
@[simp] theorem State.drawn_draws (n : Nat) : (s.drawn n).draws = s.draws + (n - s.answers.length) := rfl
@[simp] theorem State.drawn_trace (n : Nat) : (s.drawn n).trace = s.trace := rfl
@[simp] theorem State.drawn_returns (n : Nat) : (s.drawn n).returns = s.returns := rfl

/-! ### performed -/

@[simp] theorem State.performed_pins (ops : List BusOp) : (s.performed ops).pins = s.pins := rfl
@[simp] theorem State.performed_busWidth (ops : List BusOp) : (s.performed ops).busWidth = s.busWidth := rfl
@[simp] theorem State.performed_hasRw (ops : List BusOp) : (s.performed ops).hasRw = s.hasRw := rfl
@[simp] theorem State.performed_lineCount (ops : List BusOp) : (s.performed ops).lineCount = s.lineCount := rfl
@[simp] theorem State.performed_matrix (ops : List BusOp) : (s.performed ops).matrix = s.matrix := rfl
@[simp] theorem State.performed_displayOn (ops : List BusOp) : (s.performed ops).displayOn = s.displayOn := rfl
@[simp] theorem State.performed_cursorOn (ops : List BusOp) : (s.performed ops).cursorOn = s.cursorOn := rfl
@[simp] theorem State.performed_blinkOn (ops : List BusOp) : (s.performed ops).blinkOn = s.blinkOn := rfl
@[simp] theorem State.performed_entryLtr (ops : List BusOp) : (s.performed ops).entryLtr = s.entryLtr := rfl
@[simp] theorem State.performed_entryShift (ops : List BusOp) : (s.performed ops).entryShift = s.entryShift := rfl
@[simp] theorem State.performed_phase (ops : List BusOp) : (s.performed ops).phase = s.phase := rfl
@[simp] theorem State.performed_alive (ops : List BusOp) : (s.performed ops).alive = s.alive := rfl
@[simp] theorem State.performed_rowOffsets (ops : List BusOp) : (s.performed ops).rowOffsets = s.rowOffsets := rfl
@[simp] theorem State.performed_levels (ops : List BusOp) : (s.performed ops).levels = driven ops s.levels := rfl
@[simp] theorem State.performed_pos (ops : List BusOp) : (s.performed ops).pos = s.pos := rfl
@[simp] theorem State.performed_owned (ops : List BusOp) : (s.performed ops).owned = s.owned := rfl
@[simp] theorem State.performed_port (ops : List BusOp) : (s.performed ops).port = s.port := rfl
@[simp] theorem State.performed_answers (ops : List BusOp) : (s.performed ops).answers = s.answers.drop (countWrites ops) := rfl
@[simp] theorem State.performed_draws (ops : List BusOp) : (s.performed ops).draws = s.draws + (countWrites ops - s.answers.length) := rfl
@[simp] theorem State.performed_trace (ops : List BusOp) : (s.performed ops).trace = s.trace ++ ops.map BusOp.event := rfl
@[simp] theorem State.performed_returns (ops : List BusOp) : (s.performed ops).returns = s.returns := rfl

/-! ### completed -/

@[simp] theorem State.completed_pins (ops : List BusOp) : (s.completed ops).pins = s.pins := rfl
@[simp] theorem State.completed_busWidth (ops : List BusOp) : (s.completed ops).busWidth = s.busWidth := rfl
@[simp] theorem State.completed_hasRw (ops : List BusOp) : (s.completed ops).hasRw = s.hasRw := rfl
@[simp] theorem State.completed_lineCount (ops : List BusOp) : (s.completed ops).lineCount = s.lineCount := rfl
@[simp] theorem State.completed_matrix (ops : List BusOp) : (s.completed ops).matrix = s.matrix := rfl
@[simp] theorem State.completed_displayOn (ops : List BusOp) : (s.completed ops).displayOn = s.displayOn := rfl
@[simp] theorem State.completed_cursorOn (ops : List BusOp) : (s.completed ops).cursorOn = s.cursorOn := rfl
@[simp] theorem State.completed_blinkOn (ops : List BusOp) : (s.completed ops).blinkOn = s.blinkOn := rfl
@[simp] theorem State.completed_entryLtr (ops : List BusOp) : (s.completed ops).entryLtr = s.entryLtr := rfl
@[simp] theorem State.completed_entryShift (ops : List BusOp) : (s.completed ops).entryShift = s.entryShift := rfl
@[simp] theorem State.completed_phase (ops : List BusOp) : (s.completed ops).phase = s.phase := rfl
@[simp] theorem State.completed_alive (ops : List BusOp) : (s.completed ops).alive = s.alive := rfl
@[simp] theorem State.completed_rowOffsets (ops : List BusOp) : (s.completed ops).rowOffsets = s.rowOffsets := rfl
@[simp] theorem State.completed_levels (ops : List BusOp) : (s.completed ops).levels = driven ops s.levels := rfl
@[simp] theorem State.completed_pos (ops : List BusOp) : (s.completed ops).pos = 0 := rfl
@[simp] theorem State.completed_owned (ops : List BusOp) : (s.completed ops).owned = s.owned := rfl
@[simp] theorem State.completed_port (ops : List BusOp) : (s.completed ops).port = s.port := rfl
@[simp] theorem State.completed_answers (ops : List BusOp) : (s.completed ops).answers = s.answers.drop (countWrites ops) := rfl
@[simp] theorem State.completed_draws (ops : List BusOp) : (s.completed ops).draws = s.draws + (countWrites ops - s.answers.length) := rfl
@[simp] theorem State.completed_trace (ops : List BusOp) : (s.completed ops).trace = s.trace ++ ops.map BusOp.event := rfl
@[simp] theorem State.completed_returns (ops : List BusOp) : (s.completed ops).returns = s.returns ++ [.ok] := rfl

/-! ### failedAt -/

@[simp] theorem State.failedAt_pins (done : List BusOp) (l : Line) (v left : Level) : (s.failedAt done l v left).pins = s.pins := rfl
@[simp] theorem State.failedAt_busWidth (done : List BusOp) (l : Line) (v left : Level) : (s.failedAt done l v left).busWidth = s.busWidth := rfl
@[simp] theorem State.failedAt_hasRw (done : List BusOp) (l : Line) (v left : Level) : (s.failedAt done l v left).hasRw = s.hasRw := rfl
@[simp] theorem State.failedAt_lineCount (done : List BusOp) (l : Line) (v left : Level) : (s.failedAt done l v left).lineCount = s.lineCount := rfl
@[simp] theorem State.failedAt_matrix (done : List BusOp) (l : Line) (v left : Level) : (s.failedAt done l v left).matrix = s.matrix := rfl
@[simp] theorem State.failedAt_displayOn (done : List BusOp) (l : Line) (v left : Level) : (s.failedAt done l v left).displayOn = s.displayOn := rfl
@[simp] theorem State.failedAt_cursorOn (done : List BusOp) (l : Line) (v left : Level) : (s.failedAt done l v left).cursorOn = s.cursorOn := rfl
@[simp] theorem State.failedAt_blinkOn (done : List BusOp) (l : Line) (v left : Level) : (s.failedAt done l v left).blinkOn = s.blinkOn := rfl
@[simp] theorem State.failedAt_entryLtr (done : List BusOp) (l : Line) (v left : Level) : (s.failedAt done l v left).entryLtr = s.entryLtr := rfl
@[simp] theorem State.failedAt_entryShift (done : List BusOp) (l : Line) (v left : Level) : (s.failedAt done l v left).entryShift = s.entryShift := rfl
@[simp] theorem State.failedAt_phase (done : List BusOp) (l : Line) (v left : Level) : (s.failedAt done l v left).phase = .faulted := rfl
@[simp] theorem State.failedAt_alive (done : List BusOp) (l : Line) (v left : Level) : (s.failedAt done l v left).alive = s.alive := rfl
@[simp] theorem State.failedAt_rowOffsets (done : List BusOp) (l : Line) (v left : Level) : (s.failedAt done l v left).rowOffsets = s.rowOffsets := rfl
@[simp] theorem State.failedAt_levels (done : List BusOp) (l : Line) (v left : Level) : (s.failedAt done l v left).levels = (driven done s.levels).set l left := rfl
@[simp] theorem State.failedAt_pos (done : List BusOp) (l : Line) (v left : Level) : (s.failedAt done l v left).pos = 0 := rfl
@[simp] theorem State.failedAt_owned (done : List BusOp) (l : Line) (v left : Level) : (s.failedAt done l v left).owned = s.owned := rfl
@[simp] theorem State.failedAt_port (done : List BusOp) (l : Line) (v left : Level) : (s.failedAt done l v left).port = s.port := rfl
@[simp] theorem State.failedAt_answers (done : List BusOp) (l : Line) (v left : Level) : (s.failedAt done l v left).answers = (s.answers.drop (countWrites done)).drop 1 := rfl
@[simp] theorem State.failedAt_draws (done : List BusOp) (l : Line) (v left : Level) : (s.failedAt done l v left).draws = s.draws + (countWrites done - s.answers.length) + (1 - (s.answers.drop (countWrites done)).length) := rfl
@[simp] theorem State.failedAt_trace (done : List BusOp) (l : Line) (v left : Level) : (s.failedAt done l v left).trace = s.trace ++ done.map BusOp.event ++ [.wBang l v] := rfl
@[simp] theorem State.failedAt_returns (done : List BusOp) (l : Line) (v left : Level) : (s.failedAt done l v left).returns = s.returns ++ [.err (.lineWrite l v done.length)] := rfl

/-! ### initStep0 -/

@[simp] theorem initStep0_pins (columns lines : Nat) (m : Matrix) : (initStep0 columns lines m s).pins = s.pins := rfl
@[simp] theorem initStep0_busWidth (columns lines : Nat) (m : Matrix) : (initStep0 columns lines m s).busWidth = s.busWidth := rfl
@[simp] theorem initStep0_hasRw (columns lines : Nat) (m : Matrix) : (initStep0 columns lines m s).hasRw = s.hasRw := rfl
@[simp] theorem initStep0_lineCount (columns lines : Nat) (m : Matrix) : (initStep0 columns lines m s).lineCount = some (linesOfRequest lines) := rfl
@[simp] theorem initStep0_matrix (columns lines : Nat) (m : Matrix) : (initStep0 columns lines m s).matrix = some (matrixOfRequest m (linesOfRequest lines)) := rfl
@[simp] theorem initStep0_displayOn (columns lines : Nat) (m : Matrix) : (initStep0 columns lines m s).displayOn = s.displayOn := rfl
@[simp] theorem initStep0_cursorOn (columns lines : Nat) (m : Matrix) : (initStep0 columns lines m s).cursorOn = s.cursorOn := rfl
@[simp] theorem initStep0_blinkOn (columns lines : Nat) (m : Matrix) : (initStep0 columns lines m s).blinkOn = s.blinkOn := rfl
@[simp] theorem initStep0_entryLtr (columns lines : Nat) (m : Matrix) : (initStep0 columns lines m s).entryLtr = s.entryLtr := rfl
@[simp] theorem initStep0_entryShift (columns lines : Nat) (m : Matrix) : (initStep0 columns lines m s).entryShift = s.entryShift := rfl
@[simp] theorem initStep0_phase (columns lines : Nat) (m : Matrix) : (initStep0 columns lines m s).phase = .poweredUnknown := rfl
@[simp] theorem initStep0_alive (columns lines : Nat) (m : Matrix) : (initStep0 columns lines m s).alive = s.alive := rfl
@[simp] theorem initStep0_rowOffsets (columns lines : Nat) (m : Matrix) : (initStep0 columns lines m s).rowOffsets = some (RowOffsets.ofColumns columns) := rfl
@[simp] theorem initStep0_levels (columns lines : Nat) (m : Matrix) : (initStep0 columns lines m s).levels = s.levels := rfl
@[simp] theorem initStep0_pos (columns lines : Nat) (m : Matrix) : (initStep0 columns lines m s).pos = s.pos := rfl
@[simp] theorem initStep0_owned (columns lines : Nat) (m : Matrix) : (initStep0 columns lines m s).owned = s.owned := rfl
@[simp] theorem initStep0_port (columns lines : Nat) (m : Matrix) : (initStep0 columns lines m s).port = s.port := rfl
@[simp] theorem initStep0_answers (columns lines : Nat) (m : Matrix) : (initStep0 columns lines m s).answers = s.answers := rfl
@[simp] theorem initStep0_draws (columns lines : Nat) (m : Matrix) : (initStep0 columns lines m s).draws = s.draws := rfl
@[simp] theorem initStep0_trace (columns lines : Nat) (m : Matrix) : (initStep0 columns lines m s).trace = s.trace := rfl
@[simp] theorem initStep0_returns (columns lines : Nat) (m : Matrix) : (initStep0 columns lines m s).returns = s.returns := rfl

/-! ### install -/

@[simp] theorem State.install_pins (d : Binding) : (s.install d).pins = d := rfl
@[simp] theorem State.install_busWidth (d : Binding) : (s.install d).busWidth = bindingWidth d := rfl
@[simp] theorem State.install_hasRw (d : Binding) : (s.install d).hasRw = d.rw.isSome := rfl
@[simp] theorem State.install_lineCount (d : Binding) : (s.install d).lineCount = none := rfl
@[simp] theorem State.install_matrix (d : Binding) : (s.install d).matrix = none := rfl
@[simp] theorem State.install_displayOn (d : Binding) : (s.install d).displayOn = true := rfl
@[simp] theorem State.install_cursorOn (d : Binding) : (s.install d).cursorOn = false := rfl
@[simp] theorem State.install_blinkOn (d : Binding) : (s.install d).blinkOn = false := rfl
@[simp] theorem State.install_entryLtr (d : Binding) : (s.install d).entryLtr = true := rfl
@[simp] theorem State.install_entryShift (d : Binding) : (s.install d).entryShift = false := rfl
@[simp] theorem State.install_phase (d : Binding) : (s.install d).phase = .poweredUnknown := rfl
@[simp] theorem State.install_alive (d : Binding) : (s.install d).alive = true := rfl
@[simp] theorem State.install_rowOffsets (d : Binding) : (s.install d).rowOffsets = none := rfl
@[simp] theorem State.install_levels (d : Binding) : (s.install d).levels = Levels.allLow := rfl
@[simp] theorem State.install_pos (d : Binding) : (s.install d).pos = s.pos := rfl
@[simp] theorem State.install_owned (d : Binding) : (s.install d).owned = s.takenIds := rfl
@[simp] theorem State.install_port (d : Binding) : (s.install d).port = s.port := rfl
@[simp] theorem State.install_answers (d : Binding) : (s.install d).answers = s.answers := rfl
@[simp] theorem State.install_draws (d : Binding) : (s.install d).draws = s.draws := rfl
@[simp] theorem State.install_trace (d : Binding) : (s.install d).trace = s.trace := rfl
@[simp] theorem State.install_returns (d : Binding) : (s.install d).returns = s.returns := rfl

/-! ### answered -/

@[simp] theorem State.answered_pins : s.answered.pins = s.pins := by
  unfold State.answered; split <;> rfl
@[simp] theorem State.answered_busWidth : s.answered.busWidth = s.busWidth := by
  unfold State.answered; split <;> rfl
@[simp] theorem State.answered_hasRw : s.answered.hasRw = s.hasRw := by
  unfold State.answered; split <;> rfl
@[simp] theorem State.answered_lineCount : s.answered.lineCount = s.lineCount := by
  unfold State.answered; split <;> rfl
@[simp] theorem State.answered_matrix : s.answered.matrix = s.matrix := by
  unfold State.answered; split <;> rfl
@[simp] theorem State.answered_displayOn : s.answered.displayOn = s.displayOn := by
  unfold State.answered; split <;> rfl
@[simp] theorem State.answered_cursorOn : s.answered.cursorOn = s.cursorOn := by
  unfold State.answered; split <;> rfl
@[simp] theorem State.answered_blinkOn : s.answered.blinkOn = s.blinkOn := by
  unfold State.answered; split <;> rfl
@[simp] theorem State.answered_entryLtr : s.answered.entryLtr = s.entryLtr := by
  unfold State.answered; split <;> rfl
@[simp] theorem State.answered_entryShift : s.answered.entryShift = s.entryShift := by
  unfold State.answered; split <;> rfl
@[simp] theorem State.answered_phase : s.answered.phase = s.phase := by
  unfold State.answered; split <;> rfl
@[simp] theorem State.answered_alive : s.answered.alive = s.alive := by
  unfold State.answered; split <;> rfl
@[simp] theorem State.answered_rowOffsets : s.answered.rowOffsets = s.rowOffsets := by
  unfold State.answered; split <;> rfl
@[simp] theorem State.answered_levels : s.answered.levels = s.levels := by
  unfold State.answered; split <;> rfl
@[simp] theorem State.answered_pos : s.answered.pos = s.pos := by
  unfold State.answered; split <;> rfl
@[simp] theorem State.answered_owned : s.answered.owned = s.owned := by
  unfold State.answered; split <;> rfl
@[simp] theorem State.answered_port : s.answered.port = s.port := by
  unfold State.answered; split <;> rfl
@[simp] theorem State.answered_answers : s.answered.answers = s.answers.tail := by
  unfold State.answered; split <;> simp_all
@[simp] theorem State.answered_draws : s.answered.draws = s.draws + (1 - s.answers.length) := by
  unfold State.answered; split <;> simp_all
@[simp] theorem State.answered_trace : s.answered.trace = s.trace := by
  unfold State.answered; split <;> rfl
@[simp] theorem State.answered_returns : s.answered.returns = s.returns := by
  unfold State.answered; split <;> rfl

/-- Two states with the same fields are the same state. -/
theorem State.ext_fields {s t : State}
    (h_pins : s.pins = t.pins)
    (h_busWidth : s.busWidth = t.busWidth)
    (h_hasRw : s.hasRw = t.hasRw)
    (h_lineCount : s.lineCount = t.lineCount)
    (h_matrix : s.matrix = t.matrix)
    (h_displayOn : s.displayOn = t.displayOn)
    (h_cursorOn : s.cursorOn = t.cursorOn)
    (h_blinkOn : s.blinkOn = t.blinkOn)
    (h_entryLtr : s.entryLtr = t.entryLtr)
    (h_entryShift : s.entryShift = t.entryShift)
    (h_phase : s.phase = t.phase)
    (h_alive : s.alive = t.alive)
    (h_rowOffsets : s.rowOffsets = t.rowOffsets)
    (h_levels : s.levels = t.levels)
    (h_pos : s.pos = t.pos)
    (h_owned : s.owned = t.owned)
    (h_port : s.port = t.port)
    (h_answers : s.answers = t.answers)
    (h_draws : s.draws = t.draws)
    (h_trace : s.trace = t.trace)
    (h_returns : s.returns = t.returns) :
    s = t := by
  cases s; cases t; simp_all

end Sys2Proof.Machine
end

