-- ==== Sys2Proof/Laws/Ops.lean ====
section
/-! SUPPORT. One lemma for each shared operation that says once everything it can do; the proofs about instructions cite
these and never unfold the operations. -/

namespace Sys2Proof.Machine

/-! ### The backend's answers -/

@[simp] theorem State.drawn_zero (s : State) : s.drawn 0 = s := by simp [State.drawn]

theorem State.drawn_drawn (s : State) (a b : Nat) : (s.drawn a).drawn b = s.drawn (a + b) := by
  simp only [State.drawn, List.drop_drop, List.length_drop]
  congr 1
  omega

theorem State.answered_eq_drawn (s : State) : s.answered = s.drawn 1 := by
  apply State.ext_fields <;> simp

theorem State.answerAt_zero (s : State) : s.answerAt 0 = s.nextAnswer := by
  unfold State.answerAt State.nextAnswer
  cases h : s.answers <;> simp

theorem State.answerAt_drawn (s : State) (n k : Nat) : (s.drawn n).answerAt k = s.answerAt (n + k) := by
  simp only [State.answerAt, State.drawn_answers, State.drawn_draws, List.getElem?_drop, List.length_drop]
  cases h : s.answers[n + k]? with
  | some a => rfl
  | none =>
    have := List.getElem?_eq_none_iff.mp h
    dsimp only
    congr 1
    omega

/-- The answers ahead depend on the answers given and the counter of free draws only. -/
theorem answerAt_congr {s t : State} (ha : t.answers = s.answers) (hd : t.draws = s.draws) (k : Nat) :
    t.answerAt k = s.answerAt k := by
  simp [State.answerAt, ha, hd]

theorem grants_congr {s t : State} (ha : t.answers = s.answers) (hd : t.draws = s.draws) {n : Nat}
    (h : s.grants n) : t.grants n := fun k hk => (answerAt_congr ha hd k).trans (h k hk)

theorem refusesAt_congr {s t : State} (ha : t.answers = s.answers) (hd : t.draws = s.draws) {n : Nat} {left : Level}
    (h : s.refusesAt n left) : t.refusesAt n left :=
  ⟨grants_congr ha hd h.1, (answerAt_congr ha hd n).trans h.2⟩

theorem State.grants_succ {s : State} {n : Nat} (h : s.grants (n + 1)) :
    s.nextAnswer = .ok ∧ s.answered.grants n := by
  refine ⟨s.answerAt_zero ▸ h 0 (by omega), fun k hk => ?_⟩
  rw [s.answered_eq_drawn, s.answerAt_drawn]
  exact h (1 + k) (by omega)

theorem State.grants_of_le {s : State} {m n : Nat} (h : s.grants n) (hmn : m ≤ n) : s.grants m :=
  fun k hk => h k (by omega)

theorem State.grants_add {s : State} {a b : Nat} (h : s.grants (a + b)) : s.grants a ∧ (s.drawn a).grants b :=
  ⟨fun k hk => h k (by omega), fun k hk => by rw [s.answerAt_drawn]; exact h (a + k) (by omega)⟩

/-! ### Line writes -/

/-- Everything a LineWrite can do (R14, R303). -/
theorem State.lineWrite_cases (s : State) (l : Line) (v : Level) :
    (s.nextAnswer = .ok ∧ s.lineWrite l v = .go ((s.answered.emit (.w l v)).setLevel l v)) ∨
    ∃ left, s.nextAnswer = .fail left ∧ s.lineWrite l v = s.answered.raiseLineWrite l v left := by
  unfold State.lineWrite
  cases h : s.nextAnswer with
  | ok => exact .inl ⟨rfl, rfl⟩
  | fail left => exact .inr ⟨left, rfl, rfl⟩

@[simp] theorem Flow.go_andThen (s : State) (k : State → Flow) : (Flow.go s).andThen k = k s := rfl

@[simp] theorem Flow.raised_andThen (e : Error) (s : State) (k : State → Flow) :
    (Flow.raised e s).andThen k = .raised e s := rfl

theorem Flow.andThen_assoc (f : Flow) (g k : State → Flow) :
    (f.andThen g).andThen k = f.andThen fun s => (g s).andThen k := by
  cases f <;> rfl

@[simp] theorem Flow.andThen_go (f : Flow) : f.andThen .go = f := by cases f <;> rfl

/-! ### Lists of transfers -/

@[simp] theorem countWrites_append (a b : List BusOp) : countWrites (a ++ b) = countWrites a + countWrites b := by
  induction a with
  | nil => simp [countWrites]
  | cons op rest ih =>
    cases op with
    | write l v => simp only [List.cons_append, countWrites, ih]; omega
    | sleep d => simp only [List.cons_append, countWrites, ih]

/-- A run of two lists is a run of the first, then of the second unless the first failed. -/
theorem runOps_append (a b : List BusOp) (s : State) : runOps (a ++ b) s = (runOps a s).andThen (runOps b) := by
  induction a generalizing s with
  | nil => rfl
  | cons op rest ih =>
    cases op with
    | write l v =>
      simp only [List.cons_append, runOps, Flow.andThen_assoc]
      congr 1
      funext t
      exact ih t
    | sleep d => exact ih _

@[simp] theorem State.performed_nil (s : State) : s.performed [] = s := by
  apply State.ext_fields <;> simp [countWrites, driven]

/-- Performing one list and then another is performing their concatenation. -/
theorem State.performed_append (s : State) (a b : List BusOp) :
    (s.performed a).performed b = s.performed (a ++ b) := by
  apply State.ext_fields <;> simp
  omega

/-- If the backend grants every write, all of the list is performed (R14, R167). -/
theorem runOps_granted : ∀ (ops : List BusOp) (s : State), s.grants (countWrites ops) →
    runOps ops s = .go ((s.performed ops).setPos (s.pos + ops.length))
  | [], s, _ => by
    rw [State.performed_nil]
    rfl
  | .sleep d :: rest, s, h => by
    have ih := runOps_granted rest (s.sleep d) (grants_congr rfl rfl h)
    rw [runOps, ih]
    congr 1
    apply State.ext_fields <;> simp [State.sleep, countWrites, driven, BusOp.event]
    omega
  | .write l v :: rest, s, h => by
    obtain ⟨h0, h1⟩ := State.grants_succ h
    have ih := runOps_granted rest ((s.answered.emit (.w l v)).setLevel l v) (grants_congr rfl rfl h1)
    rw [runOps, State.lineWrite, h0]
    simp only [Flow.go_andThen]
    rw [ih]
    congr 1
    apply State.ext_fields <;> simp [countWrites, driven, BusOp.event] <;> omega

/-- If the backend refuses a write, the list is performed up to it and the LineWriteError is taken (R167, R303). -/
theorem runOps_refused (done : List BusOp) (l : Line) (v left : Level) (rest : List BusOp) (s : State)
    (h : s.refusesAt (countWrites done) left) :
    runOps (done ++ .write l v :: rest) s =
      (((s.performed done).setPos (s.pos + done.length)).drawn 1).raiseLineWrite l v left := by
  rw [runOps_append, runOps_granted done s h.1, Flow.go_andThen, runOps]
  have hn : ((s.performed done).setPos (s.pos + done.length)).nextAnswer = .fail left := by
    have hc : ((s.performed done).setPos (s.pos + done.length)).answerAt 0 =
        (s.drawn (countWrites done)).answerAt 0 := answerAt_congr rfl rfl 0
    rw [← State.answerAt_zero, hc, State.answerAt_drawn]
    exact h.2
  rw [State.lineWrite, hn]
  simp only [State.answered_eq_drawn]
  rfl

/-- Every list of transfers is granted, or has a first refused write. -/
theorem granted_or_refused : ∀ (ops : List BusOp) (s : State), s.grants (countWrites ops) ∨
    ∃ done l v rest left, ops = done ++ .write l v :: rest ∧ s.refusesAt (countWrites done) left
  | [], s => .inl fun k hk => by simp [countWrites] at hk
  | .sleep d :: rest, s => by
    rcases granted_or_refused rest s with h | ⟨done, l, v, rest', left, rfl, h⟩
    · exact .inl h
    · exact .inr ⟨.sleep d :: done, l, v, rest', left, rfl, h⟩
  | .write l v :: rest, s => by
    cases h0 : s.nextAnswer with
    | fail left =>
      exact .inr ⟨[], l, v, rest, left, rfl, fun k hk => by simp [countWrites] at hk, s.answerAt_zero.trans h0⟩
    | ok =>
      rcases granted_or_refused rest s.answered with h | ⟨done, l', v', rest', left, rfl, h⟩
      · refine .inl fun k hk => ?_
        cases k with
        | zero => exact s.answerAt_zero.trans h0
        | succ k =>
          have := h k (by simp only [countWrites] at hk; omega)
          rwa [s.answered_eq_drawn, s.answerAt_drawn, Nat.add_comm] at this
      · refine .inr ⟨.write l v :: done, l', v', rest', left, rfl, fun k hk => ?_, ?_⟩
        · cases k with
          | zero => exact s.answerAt_zero.trans h0
          | succ k =>
            have := h.1 k (by simp only [countWrites] at hk; omega)
            rwa [s.answered_eq_drawn, s.answerAt_drawn, Nat.add_comm] at this
        · have := h.2
          rwa [s.answered_eq_drawn, s.answerAt_drawn, Nat.add_comm] at this

/-! ### Serving a request -/

@[simp] theorem State.serve_some (s : State) (e : Error) (body : State → Flow) :
    s.serve (some e) body = s.respond (.err e) := rfl

@[simp] theorem State.serve_none (s : State) (body : State → Flow) :
    s.serve none body = (body (s.setPos 0)).close := rfl

theorem State.admissionError_of_dropped {s : State} (i : Instr) (h : s.alive = false) :
    s.admissionError i = some (.dropped i) := by
  simp [State.admissionError, h]

theorem State.admissionError_of_notReady {s : State} (i : Instr) (ha : s.alive = true) (hp : s.phase ≠ .ready) :
    s.admissionError i = some (.notReady i s.phase) := by
  simp [State.admissionError, ha, hp]

theorem State.admissionError_of_ready {s : State} (i : Instr) (ha : s.alive = true) (hp : s.phase = .ready) :
    s.admissionError i = none := by
  simp [State.admissionError, ha, hp]

/-- A granted request ends in `completed`. -/
theorem close_runOps_granted {s m : State} {ops : List BusOp} (ha : m.answers = s.answers) (hd : m.draws = s.draws)
    (h : s.grants (countWrites ops)) : (runOps ops (m.setPos 0)).close = m.completed ops := by
  rw [runOps_granted ops (m.setPos 0) (grants_congr ha hd h), Flow.close]
  apply State.ext_fields <;> simp

/-- A request with a refused write ends in `failedAt`. -/
theorem close_runOps_refused {s m : State} {done : List BusOp} {l : Line} {v left : Level} (rest : List BusOp)
    (ha : m.answers = s.answers) (hd : m.draws = s.draws) (h : s.refusesAt (countWrites done) left) :
    (runOps (done ++ .write l v :: rest) (m.setPos 0)).close = m.failedAt done l v left := by
  rw [runOps_refused done l v left rest (m.setPos 0) (refusesAt_congr ha hd h), State.raiseLineWrite, Flow.close]
  apply State.ext_fields <;> simp

/-- Everything that serving a request of the Ready class can do (R240, R302 to R307). -/
theorem serve_cases {s m : State} {i : Instr} {ops : List BusOp} {body : State → Flow}
    (hb : body (s.setPos 0) = runOps ops (m.setPos 0)) (ha : m.answers = s.answers) (hd : m.draws = s.draws) :
    (s.alive = false ∧ s.serve (s.admissionError i) body = s.respond (.err (.dropped i))) ∨
    (s.alive = true ∧ s.phase ≠ .ready ∧
      s.serve (s.admissionError i) body = s.respond (.err (.notReady i s.phase))) ∨
    (s.alive = true ∧ s.phase = .ready ∧ s.grants (countWrites ops) ∧
      s.serve (s.admissionError i) body = m.completed ops) ∨
    (s.alive = true ∧ s.phase = .ready ∧ ∃ done l v rest left, ops = done ++ .write l v :: rest ∧
      s.refusesAt (countWrites done) left ∧ s.serve (s.admissionError i) body = m.failedAt done l v left) := by
  cases h0 : s.alive with
  | false => exact .inl ⟨rfl, by rw [State.admissionError_of_dropped i h0, State.serve_some]⟩
  | true =>
    by_cases hp : s.phase = .ready
    · rw [State.admissionError_of_ready i h0 hp, State.serve_none, hb]
      rcases granted_or_refused ops s with hg | ⟨done, l, v, rest, left, hops, hr⟩
      · exact .inr (.inr (.inl ⟨rfl, hp, hg, close_runOps_granted ha hd hg⟩))
      · exact .inr (.inr (.inr ⟨rfl, hp, done, l, v, rest, left, hops, hr,
          hops ▸ close_runOps_refused rest ha hd hr⟩))
    · exact .inr (.inl ⟨rfl, hp, by rw [State.admissionError_of_notReady i h0 hp, State.serve_some]⟩)

@[simp] theorem State.agrees_refl (s : State) : s.agrees s := rfl

/-- A request whose meaning is admission and then a list of transfers answers as R240 and R302 to R307 say. -/
theorem answersAt_of_serve {s m : State} {i : Instr} {ops : List BusOp} {body : State → Flow}
    (h : exec i s = .next (s.serve (s.admissionError i) body)) (hb : body (s.setPos 0) = runOps ops (m.setPos 0))
    (ha : m.answers = s.answers) (hd : m.draws = s.draws) : AnswersAt s i m ops := by
  refine ⟨fun h0 => ?_, fun h0 hp => ?_, fun h0 hp hg => ⟨_, h, ?_⟩, fun h0 hp done l v rest left hops hr => ⟨_, h, ?_⟩⟩
  · rw [h, State.admissionError_of_dropped i h0, State.serve_some]
  · rw [h, State.admissionError_of_notReady i h0 hp, State.serve_some]
  · rw [State.admissionError_of_ready i h0 hp, State.serve_none, hb, close_runOps_granted ha hd hg]
    exact State.agrees_refl _
  · rw [State.admissionError_of_ready i h0 hp, State.serve_none, hb, hops, close_runOps_refused rest ha hd hr]
    exact State.agrees_refl _

end Sys2Proof.Machine
end

