-- ==== Sys2Proof/Laws/Lifecycle.lean ====
section
/-! SUPPORT. Line requests and releases: the two ways the line requests of a construction end (`requestAll_granted`,
`requestAll_refused`, `requested_or_refused`), and everything `construct` and `drop` can do. -/

namespace Sys2Proof.Machine

/-- No id is repeated exactly if all are different. -/
theorem firstRepeated_eq_none : ∀ ids : List LineId, firstRepeated ids = none ↔ ids.Nodup
  | [] => by simp [firstRepeated]
  | id :: rest => by
    unfold firstRepeated
    by_cases h : id ∈ rest
    · simp [h]
    · simp [h, firstRepeated_eq_none rest]

/-- The repeated id occurs at least twice. -/
theorem firstRepeated_count : ∀ (ids : List LineId) (id : LineId), firstRepeated ids = some id → 2 ≤ ids.count id
  | [], _, h => by cases h
  | x :: rest, id, h => by
    unfold firstRepeated at h
    split at h
    · next hx =>
      cases h
      have := List.count_pos_iff.mpr hx
      rw [List.count_cons_self]
      omega
    · exact (firstRepeated_count rest id h).trans (List.count_le_count_cons)

/-- A list of releases adds one event per line and changes nothing else. -/
theorem releaseAll_eq : ∀ (ls : List Line) (s : State),
    releaseAll ls s = { s with trace := s.trace ++ ls.map .x, pos := s.pos + ls.length }
  | [], s => by simp [releaseAll]
  | l :: rest, s => by
    rw [releaseAll, releaseAll_eq rest (s.lineRelease l)]
    apply State.ext_fields <;> simp [State.lineRelease]
    omega

/-- The state after the backend granted the requests of `lines`. -/
def State.requested (s : State) (lines : List (Line × LineId)) : State :=
  { s.drawn lines.length with
    trace := s.trace ++ lines.map fun p => .q p.1
    pos := s.pos + lines.length }

/-- Every line granted: one `Q` event each, in order (R340). -/
theorem requestAll_granted (taken : List LineId) : ∀ (lines : List (Line × LineId)) (held : List Line) (s : State),
    (∀ p ∈ lines, p.2 ∉ taken) → s.grants lines.length → requestAll taken lines held s = .go (s.requested lines)
  | [], _, s, _, _ => by simp [requestAll, State.requested]
  | (l, id) :: rest, held, s, hf, hg => by
    obtain ⟨h0, h1⟩ := State.grants_succ hg
    rw [requestAll, if_pos ⟨h0, hf (l, id) (by simp)⟩,
      requestAll_granted taken rest _ (s.answered.emit (.q l)) (fun p hp => hf p (by simp [hp])) (grants_congr rfl rfl h1)]
    congr 1
    apply State.ext_fields <;> simp [State.requested] <;> omega

/-- The first line refused: `Q!`, and the lines held released, newest first (R342). -/
theorem requestAll_refused (taken : List LineId) (l : Line) (id : LineId) (post : List (Line × LineId)) :
    ∀ (pre : List (Line × LineId)) (held : List Line) (s : State), (∀ p ∈ pre, p.2 ∉ taken) → s.grants pre.length →
      (s.answerAt pre.length ≠ .ok ∨ id ∈ taken) →
      requestAll taken (pre ++ (l, id) :: post) held s =
        .raised (.lineBinding (.lineRefused l))
          (releaseAll ((pre.reverse.map Prod.fst) ++ held) ((s.requested pre).answered.emit (.qBang l)))
  | [], held, s, _, _, h => by
    rw [List.nil_append, requestAll, if_neg]
    · simp [State.requested]
    · rintro ⟨h1, h2⟩
      rcases h with h | h
      · exact h (s.answerAt_zero.trans h1)
      · exact h2 h
  | (l', id') :: pre, held, s, hf, hg, h => by
    obtain ⟨h0, h1⟩ := State.grants_succ hg
    rw [List.cons_append, requestAll, if_pos ⟨h0, hf (l', id') (by simp)⟩,
      requestAll_refused taken l id post pre _ (s.answered.emit (.q l')) (fun p hp => hf p (by simp [hp])) (grants_congr rfl rfl h1)]
    · congr 1
      rw [releaseAll_eq, releaseAll_eq]
      apply State.ext_fields <;> simp [State.requested] <;> omega
    · refine h.imp (fun h => ?_) fun h => h
      have : ((s.answered.emit (.q l')).answerAt pre.length) = s.answered.answerAt pre.length := answerAt_congr rfl rfl _
      rw [this, s.answered_eq_drawn, s.answerAt_drawn, Nat.add_comm]
      exact h

/-- Every list of lines is granted, or has a first refused one. -/
theorem requested_or_refused (taken : List LineId) : ∀ (lines : List (Line × LineId)) (s : State),
    ((∀ p ∈ lines, p.2 ∉ taken) ∧ s.grants lines.length) ∨
    ∃ pre l id post, lines = pre ++ (l, id) :: post ∧ (∀ p ∈ pre, p.2 ∉ taken) ∧ s.grants pre.length ∧
      (s.answerAt pre.length ≠ .ok ∨ id ∈ taken)
  | [], s => .inl ⟨by simp, fun k hk => by simp at hk⟩
  | (l, id) :: rest, s => by
    by_cases h0 : s.answerAt 0 = .ok ∧ id ∉ taken
    · rcases requested_or_refused taken rest (s.drawn 1) with ⟨hf, hg⟩ | ⟨pre, l', id', post, rfl, hf, hg, hr⟩
      · refine .inl ⟨?_, fun k hk => ?_⟩
        · rintro p hp
          rcases List.mem_cons.mp hp with rfl | hp
          · exact h0.2
          · exact hf p hp
        · cases k with
          | zero => exact h0.1
          | succ k =>
            have := hg k (by simpa using hk)
            rwa [s.answerAt_drawn, Nat.add_comm] at this
      · refine .inr ⟨(l, id) :: pre, l', id', post, rfl, ?_, fun k hk => ?_, ?_⟩
        · rintro p hp
          rcases List.mem_cons.mp hp with rfl | hp
          · exact h0.2
          · exact hf p hp
        · cases k with
          | zero => exact h0.1
          | succ k =>
            have := hg k (by simpa using hk)
            rwa [s.answerAt_drawn, Nat.add_comm] at this
        · rwa [s.answerAt_drawn, Nat.add_comm] at hr
    · refine .inr ⟨[], l, id, rest, rfl, by simp, fun k hk => by simp at hk, ?_⟩
      by_cases hid : id ∈ taken
      · exact .inr hid
      · exact .inl fun h => h0 ⟨h, hid⟩

/-- Everything `construct` can do (R340 to R342). -/
theorem construct_cases (d : Binding) (s : State) :
    (∃ c, bindingFault d = some c ∧ exec (.construct d) s = .next (s.respond (.err (.lineBinding c)))) ∨
    (bindingFault d = none ∧ (∀ p ∈ bindingLines d, p.2 ∉ s.takenIds) ∧ s.grants (bindingLines d).length ∧
      exec (.construct d) s =
        .next ((({ s.requested (bindingLines d) with pos := 0 } : State).install d).respond .ok)) ∨
    (bindingFault d = none ∧ ∃ pre l id post, bindingLines d = pre ++ (l, id) :: post ∧
      (s.answerAt pre.length ≠ .ok ∨ id ∈ s.takenIds) ∧
      exec (.construct d) s = .next { s.drawn (pre.length + 1) with
        pos := 0
        trace := s.trace ++ pre.map (fun p => .q p.1) ++ [.qBang l] ++ pre.reverse.map (fun p => .x p.1)
        returns := s.returns ++ [.err (.lineBinding (.lineRefused l))] }) := by
  simp only [exec, execConstruct]
  cases hb : bindingFault d with
  | some c => exact .inl ⟨c, rfl, rfl⟩
  | none =>
    refine .inr ?_
    have ht : (s.setPos 0).takenIds = s.takenIds := rfl
    rcases requested_or_refused s.takenIds (bindingLines d) s with ⟨hf, hg⟩ | ⟨pre, l, id, post, hl, hf, hg, hr⟩
    · refine .inl ⟨rfl, hf, hg, ?_⟩
      simp only [State.serve_none, ht]
      rw [requestAll_granted _ _ _ (s.setPos 0) hf (grants_congr rfl rfl hg), Flow.go_andThen, Flow.close]
      rfl
    · refine .inr ⟨rfl, pre, l, id, post, hl, hr, ?_⟩
      simp only [State.serve_none, ht, hl]
      have hr' : (s.setPos 0).answerAt pre.length ≠ .ok ∨ id ∈ s.takenIds := hr
      rw [requestAll_refused _ _ _ _ _ _ (s.setPos 0) hf (grants_congr rfl rfl hg) hr', Flow.raised_andThen, Flow.close,
        releaseAll_eq]
      congr 1
      apply State.ext_fields <;> simp [State.requested]
      omega

/-- Everything `drop` can do (R343). -/
theorem drop_cases (s : State) :
    (s.alive = false ∧ exec .drop s = .next (s.respond (.err (.dropped .drop)))) ∨
    (s.alive = true ∧ exec .drop s = .next { s with
      alive := false
      pos := 0
      trace := s.trace ++ (bindingLines s.pins).map (fun p => .x p.1)
      returns := s.returns ++ [.ok] }) := by
  cases ha : s.alive with
  | false => exact .inl ⟨rfl, by simp [exec, execDrop, State.aliveError, ha]⟩
  | true =>
    refine .inr ⟨rfl, ?_⟩
    simp only [exec, execDrop, State.aliveError, ha, if_true, State.serve_none, Flow.close, releaseAll_eq]
    congr 1
    apply State.ext_fields <;> simp

end Sys2Proof.Machine
end

