-- ==== Sys2Proof/Laws/Requests.lean ====
section
/-! SUPPORT. What an instruction of the Ready class does, said once: admission, its field write and then one list of
transfers (`request_body`, `request_cases`). -/

namespace Sys2Proof.Machine

@[simp] theorem sendOps_setPos (s : State) (n : Nat) (b : Byte) (rs : Level) :
    (s.setPos n).sendOps b rs = s.sendOps b rs := rfl

@[simp] theorem sendAllOps_setPos (s : State) (n : Nat) (bs : List Byte) (rs : Level) :
    (s.setPos n).sendAllOps bs rs = s.sendAllOps bs rs := rfl

/-- `SEND` of data bytes in order is the bus words of the bytes in order. -/
theorem flatMap_data (s : State) (bs : List Byte) (rs : Level) :
    (bs.map fun b => (rs, b)).flatMap (fun w => s.sendOps w.2 w.1) = s.sendAllOps bs rs := by
  simp [State.sendAllOps, List.flatMap_map]

/-- Every request of the Ready class is admission, its field write, and then one list of transfers. -/
theorem request_body (i : Instr) (s : State) (hr : needsReady i = true) (hw : i.wellFormed = true)
    (hf : fieldsSet i s) :
    ∃ body, exec i s = .next (s.serve (s.admissionError i) body) ∧
      body (s.setPos 0) = runOps (requestOps i (flagWrite i s)) ((flagWrite i s).setPos 0) := by
  cases i with
  | initNibble0011 | initNibble0010 | drop => simp [needsReady] at hr
  | construct d => simp [needsReady] at hr
  | beginInit c l m => simp [needsReady] at hr
  | setCursor col row =>
    obtain ⟨hn, ht⟩ := hf
    obtain ⟨n, hn⟩ := Option.isSome_iff_exists.mp hn
    obtain ⟨t, ht⟩ := Option.isSome_iff_exists.mp ht
    refine ⟨sendByte (ddByte (t.get (clampIndex row n) + col)) .low, ?_, ?_⟩
    · simp only [exec, execSetCursor, State.cursorAddress, hn, ht]
      cases s.admissionError (.setCursor col row) <;> rfl
    · simp [requestOps, busWords, flagWrite, State.cursorAddress, hn, ht, settleOps, sendByte]
  | print text =>
    refine ⟨_, rfl, ?_⟩
    simp [requestOps, busWords, flagWrite, settleOps, mutateThenSend, flatMap_data]
  | createChar slot bitmap =>
    have h8 : bitmap.length = 8 := by simpa [Instr.wellFormed] using hw
    refine ⟨mutateThenSend id fun s => s.sendOps (cgByte slot) .low ++ s.sendAllOps bitmap .high, ?_, ?_⟩
    · simp [exec, execCreateChar, h8]
    · simp [requestOps, busWords, flagWrite, settleOps, mutateThenSend, flatMap_data]
  | clearDisplay | clear | home | scrollDisplayLeft | scrollDisplayRight =>
    exact ⟨_, rfl, by simp [requestOps, busWords, flagWrite, settleOps, mutateThenSend, sendByte]⟩
  | display | noDisplay | cursor | noCursor | blink | noBlink =>
    exact ⟨_, rfl, by simp [requestOps, busWords, flagWrite, settleOps, mutateThenSend, State.resendDc]; rfl⟩
  | leftToRight | rightToLeft | autoscroll | noAutoscroll =>
    exact ⟨_, rfl, by simp [requestOps, busWords, flagWrite, settleOps, mutateThenSend, State.resendEm]; rfl⟩
  | command b | write b | writeData b | returnHome b | setCgramAddress b | setDdramAddress b =>
    exact ⟨_, rfl, by simp [requestOps, busWords, flagWrite, settleOps, sendByte]⟩
  | entryModeSet ltr shift => exact ⟨_, rfl, by simp [requestOps, busWords, flagWrite, settleOps, sendByte]⟩
  | displayControl d c b => exact ⟨_, rfl, by simp [requestOps, busWords, flagWrite, settleOps, sendByte]⟩
  | cursorOrDisplayShift t r x => exact ⟨_, rfl, by simp [requestOps, busWords, flagWrite, settleOps, sendByte]⟩
  | functionSet l n f x => exact ⟨_, rfl, by simp [requestOps, busWords, flagWrite, settleOps, sendByte]⟩

@[simp] theorem flagWrite_answers (i : Instr) (s : State) : (flagWrite i s).answers = s.answers := by
  cases i <;> rfl

@[simp] theorem flagWrite_draws (i : Instr) (s : State) : (flagWrite i s).draws = s.draws := by
  cases i <;> rfl

@[simp] theorem flagWrite_pins (i : Instr) (s : State) : (flagWrite i s).pins = s.pins := by
  cases i <;> rfl

@[simp] theorem flagWrite_busWidth (i : Instr) (s : State) : (flagWrite i s).busWidth = s.busWidth := by
  cases i <;> rfl

@[simp] theorem flagWrite_hasRw (i : Instr) (s : State) : (flagWrite i s).hasRw = s.hasRw := by
  cases i <;> rfl

@[simp] theorem flagWrite_lineCount (i : Instr) (s : State) : (flagWrite i s).lineCount = s.lineCount := by
  cases i <;> rfl

@[simp] theorem flagWrite_matrix (i : Instr) (s : State) : (flagWrite i s).matrix = s.matrix := by
  cases i <;> rfl

@[simp] theorem flagWrite_phase (i : Instr) (s : State) : (flagWrite i s).phase = s.phase := by
  cases i <;> rfl

@[simp] theorem flagWrite_alive (i : Instr) (s : State) : (flagWrite i s).alive = s.alive := by
  cases i <;> rfl

@[simp] theorem flagWrite_rowOffsets (i : Instr) (s : State) : (flagWrite i s).rowOffsets = s.rowOffsets := by
  cases i <;> rfl

@[simp] theorem flagWrite_levels (i : Instr) (s : State) : (flagWrite i s).levels = s.levels := by
  cases i <;> rfl

@[simp] theorem flagWrite_pos (i : Instr) (s : State) : (flagWrite i s).pos = s.pos := by
  cases i <;> rfl

@[simp] theorem flagWrite_owned (i : Instr) (s : State) : (flagWrite i s).owned = s.owned := by
  cases i <;> rfl

@[simp] theorem flagWrite_port (i : Instr) (s : State) : (flagWrite i s).port = s.port := by
  cases i <;> rfl

@[simp] theorem flagWrite_trace (i : Instr) (s : State) : (flagWrite i s).trace = s.trace := by
  cases i <;> rfl

@[simp] theorem flagWrite_returns (i : Instr) (s : State) : (flagWrite i s).returns = s.returns := by
  cases i <;> rfl

/-- Everything an instruction of the Ready class can do. -/
theorem request_cases (i : Instr) (s : State) (hr : needsReady i = true) (hw : i.wellFormed = true)
    (hf : fieldsSet i s) :
    (s.alive = false ∧ exec i s = .next (s.respond (.err (.dropped i)))) ∨
    (s.alive = true ∧ s.phase ≠ .ready ∧ exec i s = .next (s.respond (.err (.notReady i s.phase)))) ∨
    (s.alive = true ∧ s.phase = .ready ∧ s.grants (countWrites (requestOps i (flagWrite i s))) ∧
      exec i s = .next ((flagWrite i s).completed (requestOps i (flagWrite i s)))) ∨
    (s.alive = true ∧ s.phase = .ready ∧ ∃ done l v rest left,
      requestOps i (flagWrite i s) = done ++ .write l v :: rest ∧ s.refusesAt (countWrites done) left ∧
      exec i s = .next ((flagWrite i s).failedAt done l v left)) := by
  obtain ⟨body, he, hb⟩ := request_body i s hr hw hf
  rw [he]
  rcases serve_cases hb (flagWrite_answers i s) (flagWrite_draws i s) with h | h | h | h
  · exact .inl ⟨h.1, by rw [h.2]⟩
  · exact .inr (.inl ⟨h.1, h.2.1, by rw [h.2.2]⟩)
  · exact .inr (.inr (.inl ⟨h.1, h.2.1, h.2.2.1, by rw [h.2.2.2]⟩))
  · obtain ⟨h0, hp, done, l, v, rest, left, hops, href, h⟩ := h
    exact .inr (.inr (.inr ⟨h0, hp, done, l, v, rest, left, hops, href, by rw [h]⟩))

end Sys2Proof.Machine
end

