-- ==== Sys2Proof/Laws/Sequencer.lean ====
section
/-! SUPPORT. `begin` as three lists of transfers with two flag writes between them (`initSequence_eq`), and from it the
two ways it ends: all of it granted (`initSequence_granted`), or a first refused write (`initSequence_refused`). -/

namespace Sys2Proof.Machine

/-- A run of transfers keeps a field update `f` that touches neither the backend nor what transfers write. -/
theorem runOps_comm (f : State → State) (hn : ∀ s, (f s).nextAnswer = s.nextAnswer)
    (ha : ∀ s, (f s).answered = f s.answered) (hp : ∀ s, (f s).pos = s.pos) (he : ∀ s e, (f s).emit e = f (s.emit e))
    (hl : ∀ s l v, (f s).setLevel l v = f (s.setLevel l v)) (hph : ∀ s p, (f s).setPhase p = f (s.setPhase p)) :
    ∀ (ops : List BusOp) (s : State), runOps ops (f s) =
      match runOps ops s with
      | .go t => .go (f t)
      | .raised e t => .raised e (f t)
  | [], _ => rfl
  | .sleep d :: rest, s => by
    simp only [runOps, State.sleep, he]
    exact runOps_comm f hn ha hp he hl hph rest (s.emit (.s d))
  | .write l v :: rest, s => by
    simp only [runOps, State.lineWrite, hn]
    cases s.nextAnswer with
    | ok =>
      simp only [Flow.go_andThen, ha, he, hl]
      exact runOps_comm f hn ha hp he hl hph rest _
    | fail left => simp only [State.raiseLineWrite, Flow.raised_andThen, ha, hp, he, hl, hph]

/-- A run of transfers from another phase: the same, in that phase if it goes on; Faulted as before if not (R303). -/
theorem runOps_setPhase (p : Phase) : ∀ (ops : List BusOp) (s : State), runOps ops (s.setPhase p) =
    match runOps ops s with
    | .go t => .go (t.setPhase p)
    | .raised e t => .raised e t
  | [], _ => rfl
  | .sleep d :: rest, s => runOps_setPhase p rest (s.sleep d)
  | .write l v :: rest, s => by
    have hn : (s.setPhase p).nextAnswer = s.nextAnswer := rfl
    have ha : (s.setPhase p).answered = s.answered.setPhase p := by
      cases h : s.answers <;> simp [State.answered, State.setPhase, h]
    simp only [runOps, State.lineWrite, hn, ha]
    cases s.nextAnswer with
    | ok => exact runOps_setPhase p rest ((s.answered.emit (.w l v)).setLevel l v)
    | fail left => rfl

/-- The state of a successful `begin`, apart from what its transfers do, from the state after step 0. -/
def beginDone (s0 : State) : State := (initEntryFlags (initDisplayFlags s0)).setPhase .ready

theorem runOps_displayFlags (ops : List BusOp) (s : State) : runOps ops (initDisplayFlags s) =
    match runOps ops s with
    | .go t => .go (initDisplayFlags t)
    | .raised e t => .raised e (initDisplayFlags t) := by
  refine runOps_comm initDisplayFlags (fun _ => rfl) (fun s => ?_) (fun _ => rfl) (fun _ _ => rfl) (fun _ _ _ => rfl)
    (fun _ _ => rfl) ops s
  cases h : s.answers <;> simp [State.answered, initDisplayFlags, State.setDisplay, State.setCursorOn, State.setBlink, h]

theorem runOps_entryFlags (ops : List BusOp) (s : State) : runOps ops (initEntryFlags s) =
    match runOps ops s with
    | .go t => .go (initEntryFlags t)
    | .raised e t => .raised e (initEntryFlags t) := by
  refine runOps_comm initEntryFlags (fun _ => rfl) (fun s => ?_) (fun _ => rfl) (fun _ _ => rfl) (fun _ _ _ => rfl)
    (fun _ _ => rfl) ops s
  cases h : s.answers <;> simp [State.answered, initEntryFlags, State.setLtr, State.setShift, h]

/-- A run of transfers that goes on leaves the fields that say what `begin` sends. -/
theorem runOps_go_fields {ops : List BusOp} {s t : State} (h : runOps ops s = .go t) :
    t.busWidth = s.busWidth ∧ t.hasRw = s.hasRw ∧ t.lineCount = s.lineCount ∧ t.matrix = s.matrix := by
  rcases granted_or_refused ops s with hg | ⟨done, l, v, rest, left, rfl, hr⟩
  · rw [runOps_granted ops s hg] at h
    cases h
    exact ⟨rfl, rfl, rfl, rfl⟩
  · rw [runOps_refused done l v left rest s hr] at h
    cases h

@[simp] theorem setPhase_sendOps (s : State) (p : Phase) (b : Byte) (rs : Level) :
    (s.setPhase p).sendOps b rs = s.sendOps b rs := rfl

@[simp] theorem setPhase_fs (s : State) (p : Phase) : (s.setPhase p).fs = s.fs := rfl

@[simp] theorem setPhase_negotiateOps (s : State) (p : Phase) : (s.setPhase p).negotiateOps = s.negotiateOps := rfl

@[simp] theorem displayFlags_sendOps (s : State) (b : Byte) (rs : Level) :
    (initDisplayFlags s).sendOps b rs = s.sendOps b rs := rfl

@[simp] theorem entryFlags_sendOps (s : State) (b : Byte) (rs : Level) :
    (initEntryFlags s).sendOps b rs = s.sendOps b rs := rfl

theorem sendOps_congr {s t : State} (hw : t.busWidth = s.busWidth) (hr : t.hasRw = s.hasRw) (b : Byte) (rs : Level) :
    t.sendOps b rs = s.sendOps b rs := by simp [State.sendOps, hw, hr]

theorem fs_congr {s t : State} (hw : t.busWidth = s.busWidth) (hl : t.lineCount = s.lineCount)
    (hm : t.matrix = s.matrix) : t.fs = s.fs := by simp [State.fs, hw, hl, hm]

theorem negotiateOps_congr {s t : State} (hw : t.busWidth = s.busWidth) (hr : t.hasRw = s.hasRw)
    (hl : t.lineCount = s.lineCount) (hm : t.matrix = s.matrix) : t.negotiateOps = s.negotiateOps := by
  unfold State.negotiateOps
  rw [hw]
  cases s.busWidth with
  | w4 => rfl
  | w8 => simp only [negotiateOps8, fs_congr hw hl hm, sendOps_congr hw hr]

/-- `begin`, from the state `s0` after step 0: its transfers as three lists, the flag writes of steps 4a and 5 between
them, Ready at the end. -/
theorem initSequence_eq (columns lines : Nat) (m : Matrix) (s s0 : State) (h0 : s0 = initStep0 columns lines m s) :
    initSequence columns lines m s =
      (runOps (beginOpsFunction s0) s0).andThen fun t =>
        (runOps (beginOpsDisplay s0) (initDisplayFlags t)).andThen fun t =>
          (runOps (beginOpsEntry s0) (initEntryFlags t)).andThen fun t => .go (t.setPhase .ready) := by
  subst h0
  simp only [initSequence, initStep1, initStep0_hasRw]
  rw [beginOpsFunction, List.append_assoc, runOps_append, initStep0_hasRw]
  cases h1 : runOps (forcedIdleOps s.hasRw) (initStep0 columns lines m s) with
  | raised e t => rfl
  | go t1 =>
    obtain ⟨a1, b1, c1, d1⟩ := runOps_go_fields h1
    simp only [Flow.go_andThen, initStep2]
    rw [setPhase_negotiateOps, negotiateOps_congr a1 b1 c1 d1, runOps_setPhase, runOps_append]
    cases h2 : runOps (initStep0 columns lines m s).negotiateOps t1 with
    | raised e t => rfl
    | go t2 =>
      obtain ⟨a2, b2, c2, d2⟩ := runOps_go_fields h2
      replace a2 := a2.trans a1
      replace b2 := b2.trans b1
      replace c2 := c2.trans c1
      replace d2 := d2.trans d1
      simp only [Flow.go_andThen, initStep3, setPhase_sendOps, setPhase_fs]
      rw [sendOps_congr (s := initStep0 columns lines m s) a2 b2, fs_congr (s := initStep0 columns lines m s) a2 c2 d2,
        runOps_setPhase, runOps_setPhase]
      cases h3 : runOps ((initStep0 columns lines m s).sendOps (initStep0 columns lines m s).fs .low) t2 with
      | raised e t => rfl
      | go t3 =>
        obtain ⟨a3, b3, -, -⟩ := runOps_go_fields h3
        replace a3 := a3.trans a2
        replace b3 := b3.trans b2
        simp only [Flow.go_andThen, initStep4a, mutateThenSend, State.resendDc, displayFlags_sendOps,
          setPhase_sendOps]
        have hdc : (initDisplayFlags (((t3.setPhase .forcedIdle).setPhase .busWidthNegotiated).setPhase
            .functionConfigured)).dc = 0x0C#8 := by
          change dcByte true false false = 0x0C#8
          decide
        rw [hdc, sendOps_congr (s := initStep0 columns lines m s) a3 b3, beginOpsDisplay, List.append_assoc,
          runOps_append]
        have hc : ∀ t : State, initDisplayFlags (((t.setPhase .forcedIdle).setPhase .busWidthNegotiated).setPhase
            .functionConfigured) = ((initDisplayFlags t).setPhase .functionConfigured) := fun _ => rfl
        rw [hc, runOps_setPhase]
        cases h4 : runOps ((initStep0 columns lines m s).sendOps 0x0C#8 .low) (initDisplayFlags t3) with
        | raised e t => rfl
        | go t4 =>
          obtain ⟨a4, b4, -, -⟩ := runOps_go_fields h4
          replace a4 := a4.trans a3
          replace b4 := b4.trans b3
          simp only [Flow.go_andThen, initStep4b, setPhase_sendOps]
          rw [sendOps_congr (s := initStep0 columns lines m s) a4 b4, runOps_setPhase]
          change (Flow.andThen (Flow.andThen (match runOps ((initStep0 columns lines m s).sendOps 0x01#8 .low ++ [.sleep 2000]) t4 with
            | .go t => .go (t.setPhase .functionConfigured)
            | .raised e t => .raised e t) _) _) = _
          cases h5 : runOps ((initStep0 columns lines m s).sendOps 0x01#8 .low ++ [.sleep 2000]) t4 with
          | raised e t => rfl
          | go t5 =>
            obtain ⟨a5, b5, -, -⟩ := runOps_go_fields h5
            replace a5 := a5.trans a4
            replace b5 := b5.trans b4
            simp only [Flow.go_andThen, initStep5, mutateThenSend, State.resendEm, entryFlags_sendOps,
              setPhase_sendOps]
            have hem : (initEntryFlags ((t5.setPhase .functionConfigured).setPhase .displayOnCleared)).em = 0x06#8 := by
              change emByte true false = 0x06#8
              decide
            have hc : initEntryFlags ((t5.setPhase .functionConfigured).setPhase .displayOnCleared) =
              (initEntryFlags t5).setPhase .displayOnCleared := rfl
            rw [hem, hc, sendOps_congr (s := initStep0 columns lines m s) a5 b5, runOps_setPhase, beginOpsEntry]
            cases runOps ((initStep0 columns lines m s).sendOps 0x06#8 .low) (initEntryFlags t5) <;> rfl

/-! ### The ways begin ends -/

/-- The flags a `begin` had written when its list of transfers `seg` was reached. -/
inductive BeginSegment (s0 : State) : State → List BusOp → List BusOp → Prop where
  | function : BeginSegment s0 s0 [] (beginOpsFunction s0)
  | display : BeginSegment s0 (initDisplayFlags s0) (beginOpsFunction s0) (beginOpsDisplay s0)
  | entry : BeginSegment s0 (initEntryFlags (initDisplayFlags s0)) (beginOpsFunction s0 ++ beginOpsDisplay s0)
      (beginOpsEntry s0)

theorem initDisplayFlags_eq (s : State) :
    initDisplayFlags s = { s with displayOn := true, cursorOn := false, blinkOn := false } := rfl

theorem initEntryFlags_displayFlags_eq (s : State) : initEntryFlags (initDisplayFlags s) =
    { s with displayOn := true, cursorOn := false, blinkOn := false, entryLtr := true, entryShift := false } := rfl

theorem initStep0_setPos (columns lines : Nat) (m : Matrix) (s : State) (n : Nat) :
    initStep0 columns lines m (s.setPos n) = (initStep0 columns lines m s).setPos n := rfl

/-- A granted `begin` performs all of its transfers and ends Ready. -/
theorem initSequence_granted (columns lines : Nat) (m : Matrix) (s s0 : State) (h0 : s0 = initStep0 columns lines m s)
    (hg : s.grants (countWrites (beginOps s0))) :
    (initSequence columns lines m (s.setPos 0)).close = (beginDone s0).completed (beginOps s0) := by
  subst h0
  rw [initSequence_eq columns lines m (s.setPos 0) _ rfl, initStep0_setPos]
  replace hg : (initStep0 columns lines m s).grants (countWrites (beginOps (initStep0 columns lines m s))) :=
    grants_congr rfl rfl hg
  generalize initStep0 columns lines m s = s0 at hg ⊢
  rw [beginOps, countWrites_append, countWrites_append] at hg
  obtain ⟨hg, h3⟩ := State.grants_add hg
  obtain ⟨h1, h2⟩ := State.grants_add hg
  change ((runOps (beginOpsFunction s0) (s0.setPos 0)).andThen fun t =>
    (runOps (beginOpsDisplay s0) (initDisplayFlags t)).andThen fun t =>
      (runOps (beginOpsEntry s0) (initEntryFlags t)).andThen fun t => .go (t.setPhase .ready)).close = _
  rw [runOps_granted _ (s0.setPos 0) (grants_congr rfl rfl h1), Flow.go_andThen]
  rw [runOps_granted, Flow.go_andThen]
  · rw [runOps_granted]
    · apply State.ext_fields <;>
        simp [Flow.close, beginDone, initDisplayFlags, initEntryFlags, beginOps] <;> omega
    · refine grants_congr ?_ ?_ h3 <;> simp [initDisplayFlags, initEntryFlags]
      omega
  · exact grants_congr (by simp [initDisplayFlags]) (by simp [initDisplayFlags]) h2

/-- A `begin` whose first refused write is `(l, v)` of the segment `seg` ends there (R211). -/
theorem initSequence_refused (columns lines : Nat) (m : Matrix) (s s0 u : State) (before seg done rest : List BusOp)
    (l : Line) (v left : Level) (h0 : s0 = initStep0 columns lines m s) (hs : BeginSegment s0 u before seg)
    (hseg : seg = done ++ .write l v :: rest) (hr : s.refusesAt (countWrites (before ++ done)) left) :
    (initSequence columns lines m (s.setPos 0)).close = u.failedAt (before ++ done) l v left := by
  subst h0
  rw [initSequence_eq columns lines m (s.setPos 0) _ rfl, initStep0_setPos]
  replace hr : (initStep0 columns lines m s).refusesAt (countWrites (before ++ done)) left :=
    refusesAt_congr rfl rfl hr
  generalize initStep0 columns lines m s = s0 at hs hr ⊢
  rw [countWrites_append] at hr
  obtain ⟨hg, hr⟩ := hr
  obtain ⟨hb, hd⟩ := State.grants_add hg
  rw [← State.answerAt_drawn] at hr
  change ((runOps (beginOpsFunction s0) (s0.setPos 0)).andThen fun t =>
    (runOps (beginOpsDisplay s0) (initDisplayFlags t)).andThen fun t =>
      (runOps (beginOpsEntry s0) (initEntryFlags t)).andThen fun t => .go (t.setPhase .ready)).close = _
  cases hs with
  | function =>
    simp only [countWrites, State.drawn_zero] at hd hr
    rw [hseg, runOps_refused _ _ _ _ _ (u.setPos 0) (refusesAt_congr rfl rfl ⟨hd, hr⟩)]
    apply State.ext_fields <;> simp [Flow.close, State.raiseLineWrite]
  | display =>
    rw [runOps_granted _ (s0.setPos 0) (grants_congr rfl rfl hb), Flow.go_andThen]
    rw [hseg, runOps_refused (left := left)]
    · apply State.ext_fields <;> simp [Flow.close, State.raiseLineWrite, initDisplayFlags]
      omega
    · exact refusesAt_congr (by simp [initDisplayFlags]) (by simp [initDisplayFlags]) ⟨hd, hr⟩
  | entry =>
    rw [countWrites_append] at hb hd hr
    obtain ⟨h1, h2⟩ := State.grants_add hb
    rw [runOps_granted _ (s0.setPos 0) (grants_congr rfl rfl h1), Flow.go_andThen]
    rw [runOps_granted, Flow.go_andThen]
    · rw [hseg, runOps_refused (left := left)]
      · apply State.ext_fields <;> simp [Flow.close, State.raiseLineWrite, initDisplayFlags, initEntryFlags] <;> omega
      · refine refusesAt_congr ?_ ?_ ⟨hd, hr⟩ <;> simp [initDisplayFlags, initEntryFlags]
        omega
    · exact grants_congr (by simp [initDisplayFlags]) (by simp [initDisplayFlags]) h2

/-- A list with a first refused write cuts every split of it in the same place. -/
theorem refused_in_part {done rest a b : List BusOp} {l : Line} {v : Level}
    (h : a ++ b = done ++ .write l v :: rest) :
    (∃ rest', a = done ++ .write l v :: rest') ∨ ∃ done', done = a ++ done' ∧ b = done' ++ .write l v :: rest := by
  rcases List.append_eq_append_iff.mp h with ⟨c, rfl, hb⟩ | ⟨c, rfl, hb⟩
  · exact .inr ⟨c, rfl, hb⟩
  · cases c with
    | nil => exact .inr ⟨[], by simp, by simpa using hb.symm⟩
    | cons x c =>
      simp only [List.cons_append, List.cons.injEq] at hb
      obtain ⟨rfl, -⟩ := hb
      exact .inl ⟨c, rfl⟩

/-- Everything `begin` can do. -/
theorem begin_cases (columns lines : Nat) (m : Matrix) (s s0 : State) (h0 : s0 = initStep0 columns lines m s) :
    (s.alive = false ∧ exec (.beginInit columns lines m) s =
      .next (s.respond (.err (.dropped (.beginInit columns lines m))))) ∨
    (s.alive = true ∧ s.grants (countWrites (beginOps s0)) ∧
      exec (.beginInit columns lines m) s = .next ((beginDone s0).completed (beginOps s0))) ∨
    (s.alive = true ∧ ∃ u before seg done rest l v left, BeginSegment s0 u before seg ∧
      seg = done ++ .write l v :: rest ∧ s.refusesAt (countWrites (before ++ done)) left ∧
      exec (.beginInit columns lines m) s = .next (u.failedAt (before ++ done) l v left)) := by
  simp only [exec, execBeginInit]
  cases ha : s.alive with
  | false => exact .inl ⟨rfl, by simp [State.aliveError, ha]⟩
  | true =>
    have hal : s.aliveError (.beginInit columns lines m) = none := by simp [State.aliveError, ha]
    rw [hal, State.serve_none]
    rcases granted_or_refused (beginOps s0) s with hg | ⟨done, l, v, rest, left, hops, hr⟩
    · exact .inr (.inl ⟨rfl, hg, by rw [initSequence_granted columns lines m s s0 h0 hg]⟩)
    · refine .inr (.inr ⟨rfl, ?_⟩)
      rw [beginOps] at hops
      rcases refused_in_part hops with ⟨rest1, hops1⟩ | ⟨done', rfl, hops1⟩
      · rcases refused_in_part hops1 with ⟨rest2, hops2⟩ | ⟨done', rfl, hops2⟩
        · exact ⟨_, _, _, done, rest2, l, v, left, .function, hops2, hr, by
            rw [initSequence_refused columns lines m s s0 _ _ _ done rest2 l v left h0 .function hops2 hr]⟩
        · exact ⟨_, _, _, done', rest1, l, v, left, .display, hops2, hr, by
            rw [initSequence_refused columns lines m s s0 _ _ _ done' rest1 l v left h0 .display hops2 hr]⟩
      · exact ⟨_, _, _, done', rest, l, v, left, .entry, hops1, hr, by
          rw [initSequence_refused columns lines m s s0 _ _ _ done' rest l v left h0 .entry hops1 hr]⟩

end Sys2Proof.Machine
end

