-- ==== Sys2Proof/Laws/Exec.lean ====
section
/-! SUPPORT. Everything `exec` can do, said once for all instructions (`exec_cases`), and what holds of every list of
transfers an instruction performs (`Transfers`): it is made of pulses, data writes, RS writes, RW Low, E Low and
sleeps. -/

namespace Sys2Proof.Machine

/-! ### Lists of transfers -/

/-- The lists that the meanings perform, on an engine with or without an RW line. -/
inductive Transfers (hasRw : Bool) : List BusOp → Prop where
  | nil : Transfers hasRw []
  | append {a b : List BusOp} : Transfers hasRw a → Transfers hasRw b → Transfers hasRw (a ++ b)
  | sleep (d : Nat) : Transfers hasRw [.sleep d]
  | rs (v : Level) : Transfers hasRw [.write .rs v]
  | rw (h : hasRw = true) : Transfers hasRw [.write .rw .low]
  | eLow : Transfers hasRw [.write .e .low]
  | data (k : Fin 8) (b : Bool) : Transfers hasRw [dataWrite k b]
  | pulse : Transfers hasRw pulseOps

variable {hasRw : Bool}

theorem Transfers.cons {op : BusOp} {rest : List BusOp} (h : Transfers hasRw [op]) (hr : Transfers hasRw rest) :
    Transfers hasRw (op :: rest) := Transfers.append h hr

theorem transfers_rwLow : Transfers hasRw (rwLowOps hasRw) := by
  cases hasRw with
  | true => exact .rw rfl
  | false => exact .nil

theorem transfers_nib (n : Nibble) : Transfers hasRw (nibOps n) :=
  .append (.cons (.data _ _) (.cons (.data _ _) (.cons (.data _ _) (.data _ _)))) .pulse

theorem transfers_byte8 (b : Byte) : Transfers hasRw (byte8Ops b) :=
  .append (.cons (.data _ _) (.cons (.data _ _) (.cons (.data _ _) (.cons (.data _ _) (.cons (.data _ _)
    (.cons (.data _ _) (.cons (.data _ _) (.data _ _)))))))) .pulse

theorem transfers_send (w : BusWidth) (b : Byte) (rs : Level) : Transfers hasRw (sendOps w hasRw b rs) := by
  refine .cons (.rs rs) (.append transfers_rwLow ?_)
  cases w with
  | w4 => exact .append (transfers_nib _) (transfers_nib _)
  | w8 => exact transfers_byte8 b

theorem transfers_sends (s : State) (ws : List (Level × Byte)) :
    Transfers s.hasRw (ws.flatMap fun w => s.sendOps w.2 w.1) := by
  induction ws with
  | nil => exact .nil
  | cons w ws ih => exact .append (transfers_send _ _ _) ih

theorem transfers_settle (i : Instr) : Transfers hasRw (settleOps i) := by
  cases i <;> first | exact .nil | exact .sleep _

theorem transfers_request (i : Instr) (s : State) : Transfers s.hasRw (requestOps i (flagWrite i s)) :=
  .append (flagWrite_hasRw i s ▸ transfers_sends _ _) (transfers_settle i)

theorem transfers_beginFunction (s : State) : Transfers s.hasRw (beginOpsFunction s) := by
  refine .append (.append (.append (.cons (.sleep _) (.cons (.rs _) .eLow)) transfers_rwLow) ?_) (transfers_send _ _ _)
  unfold State.negotiateOps
  cases s.busWidth with
  | w4 =>
    exact .append (.append (.append (.append (.append (.append (transfers_nib _) (.sleep _)) (transfers_nib _))
      (.sleep _)) (transfers_nib _)) (.sleep _)) (transfers_nib _)
  | w8 =>
    exact .append (.append (.append (.append (transfers_send _ _ _) (.sleep _)) (transfers_send _ _ _)) (.sleep _))
      (transfers_send _ _ _)

theorem transfers_beginDisplay (s : State) : Transfers s.hasRw (beginOpsDisplay s) :=
  .append (.append (transfers_send _ _ _) (transfers_send _ _ _)) (.sleep _)

theorem transfers_begin (s : State) : Transfers s.hasRw (beginOps s) :=
  .append (.append (transfers_beginFunction s) (transfers_beginDisplay s)) (transfers_send _ _ _)

/-! ### Everything exec can do -/

/-- Instruction `i`, admitted in state `s`, performs `ops` when all is granted; `u` is `s` after all the fields it writes. -/
inductive Body (s : State) : Instr → State → List BusOp → Prop where
  | request (i : Instr) (hr : needsReady i = true) (hw : i.wellFormed = true) (hf : fieldsSet i s)
      (hp : s.phase = .ready) : Body s i (flagWrite i s) (requestOps i (flagWrite i s))
  | nibble0011 (hw : s.busWidth = .w4) (hn : s.negotiating = true) : Body s .initNibble0011 s (nibOps nib8)
  | nibble0010 (hw : s.busWidth = .w4) (hn : s.negotiating = true) : Body s .initNibble0010 s (nibOps nib4)
  | begin (columns lines : Nat) (m : Matrix) (s0 : State) (h : s0 = initStep0 columns lines m s) :
      Body s (.beginInit columns lines m) (beginDone s0) (beginOps s0)

/-- Instruction `i`, admitted in state `s`, performs `done` and then the write `(l, v)`; `u` is `s` after the fields it has
written when it comes to that write. -/
inductive Cut (s : State) : Instr → State → List BusOp → Line → Level → Prop where
  | request (i : Instr) (hr : needsReady i = true) (hw : i.wellFormed = true) (hf : fieldsSet i s)
      (hp : s.phase = .ready) (done : List BusOp) (l : Line) (v : Level) (rest : List BusOp)
      (h : requestOps i (flagWrite i s) = done ++ .write l v :: rest) : Cut s i (flagWrite i s) done l v
  | nibble0011 (hw : s.busWidth = .w4) (hn : s.negotiating = true) (done : List BusOp) (l : Line) (v : Level) (rest : List BusOp)
      (h : nibOps nib8 = done ++ .write l v :: rest) : Cut s .initNibble0011 s done l v
  | nibble0010 (hw : s.busWidth = .w4) (hn : s.negotiating = true) (done : List BusOp) (l : Line) (v : Level) (rest : List BusOp)
      (h : nibOps nib4 = done ++ .write l v :: rest) : Cut s .initNibble0010 s done l v
  | begin (columns lines : Nat) (m : Matrix) (s0 u : State) (before seg done : List BusOp) (l : Line) (v : Level)
      (rest : List BusOp) (h0 : s0 = initStep0 columns lines m s) (hs : BeginSegment s0 u before seg)
      (h : seg = done ++ .write l v :: rest) : Cut s (.beginInit columns lines m) u (before ++ done) l v

/-- An error of admission or of the legality check: not a refused write. -/
def Error.early : Error → Bool
  | .lineWrite _ _ _ => false
  | .lineBinding _ | .notReady _ _ | .dropped _ => true

/-- Everything a nibble word can do (log 4): Dropped; NotReady in Faulted; refused; performed; cut short. -/
theorem execNibble_cases (i : Instr) (n : Nibble) (s : State) :
    (s.alive = false ∧ execNibble i n s = .next (s.respond (.err (.dropped i)))) ∨
    (s.alive = true ∧ s.phase = .faulted ∧ execNibble i n s = .next (s.respond (.err (.notReady i .faulted)))) ∨
    (∃ r, s.alive = true ∧ s.phase ≠ .faulted ∧ s.nibbleRefusal = some r ∧ execNibble i n s = .refused r) ∨
    (s.alive = true ∧ s.busWidth = .w4 ∧ s.negotiating = true ∧ s.grants (countWrites (nibOps n)) ∧
      execNibble i n s = .next (s.completed (nibOps n))) ∨
    (s.alive = true ∧ s.busWidth = .w4 ∧ s.negotiating = true ∧ ∃ done l v rest left, nibOps n = done ++ .write l v :: rest ∧
      s.refusesAt (countWrites done) left ∧ execNibble i n s = .next (s.failedAt done l v left)) := by
  unfold execNibble State.nibbleError
  cases ha : s.alive with
  | false => exact .inl ⟨rfl, rfl⟩
  | true =>
    by_cases hp : s.phase = .faulted
    · exact .inr (.inl ⟨rfl, hp, by rw [if_pos rfl, if_pos hp]; rfl⟩)
    · rw [if_pos rfl, if_neg hp]
      cases hr : s.nibbleRefusal with
      | some r => exact .inr (.inr (.inl ⟨r, rfl, hp, rfl, rfl⟩))
      | none =>
        have hw : s.busWidth = .w4 ∧ s.negotiating = true := by
          unfold State.nibbleRefusal at hr
          split at hr
          · cases hr
          · next hb =>
            split at hr
            · next hn => exact ⟨hb, hn⟩
            · cases hr
        simp only [State.serve_none, sendNibble]
        rcases granted_or_refused (nibOps n) s with hg | ⟨done, l, v, rest, left, hops, hr⟩
        · exact .inr (.inr (.inr (.inl ⟨trivial, hw.1, hw.2, hg, congrArg _ (close_runOps_granted rfl rfl hg)⟩)))
        · refine .inr (.inr (.inr (.inr ⟨trivial, hw.1, hw.2, done, l, v, rest, left, hops, hr, ?_⟩)))
          rw [hops]
          exact congrArg _ (close_runOps_refused rest rfl rfl hr)

/-- Everything an instruction that answers a next state can do. -/
theorem exec_cases {i : Instr} {s t : State} (h : exec i s = .next t) :
    (∃ e, e.early = true ∧ t = s.respond (.err e)) ∨
    (s.alive = true ∧ ∃ u ops, Body s i u ops ∧ t = u.completed ops) ∨
    (s.alive = true ∧ ∃ u done l v left, Cut s i u done l v ∧ t = u.failedAt done l v left) ∨
    (i = .drop ∧ s.alive = true ∧ t = { s with
      alive := false
      pos := 0
      trace := s.trace ++ (bindingLines s.pins).map (fun p => .x p.1)
      returns := s.returns ++ [.ok] }) ∨
    (∃ d, i = .construct d ∧ bindingFault d = none ∧
      t = (({ s.requested (bindingLines d) with pos := 0 } : State).install d).respond .ok) ∨
    ∃ d pre l id post, i = .construct d ∧ bindingLines d = pre ++ (l, id) :: post ∧
      t = { s.drawn (pre.length + 1) with
        pos := 0
        trace := s.trace ++ pre.map (fun p => .q p.1) ++ [.qBang l] ++ pre.reverse.map (fun p => .x p.1)
        returns := s.returns ++ [.err (.lineBinding (.lineRefused l))] } := by
  have nib : ∀ n, execNibble i n s = .next t → (i = .initNibble0011 ∧ n = nib8 ∨ i = .initNibble0010 ∧ n = nib4) →
      (∃ e, e.early = true ∧ t = s.respond (.err e)) ∨
      (s.alive = true ∧ ∃ u ops, Body s i u ops ∧ t = u.completed ops) ∨
      (s.alive = true ∧ ∃ u done l v left, Cut s i u done l v ∧ t = u.failedAt done l v left) := by
    intro n hn hi
    rcases execNibble_cases i n s with ⟨-, he⟩ | ⟨-, -, he⟩ | ⟨r, -, -, -, he⟩ | ⟨ha, hw, hneg, -, he⟩ |
      ⟨ha, hw, hneg, done, l, v, rest, left, hops, -, he⟩
    · exact .inl ⟨_, rfl, by simpa using hn.symm.trans he⟩
    · exact .inl ⟨_, rfl, by simpa using hn.symm.trans he⟩
    · rw [he] at hn
      cases hn
    · refine .inr (.inl ⟨ha, s, nibOps n, ?_, by simpa using hn.symm.trans he⟩)
      rcases hi with ⟨rfl, rfl⟩ | ⟨rfl, rfl⟩
      · exact .nibble0011 hw hneg
      · exact .nibble0010 hw hneg
    · refine .inr (.inr ⟨ha, s, done, l, v, left, ?_, by simpa using hn.symm.trans he⟩)
      rcases hi with ⟨rfl, rfl⟩ | ⟨rfl, rfl⟩
      · exact .nibble0011 hw hneg done l v rest hops
      · exact .nibble0010 hw hneg done l v rest hops
  by_cases hr : needsReady i = true
  · by_cases hw : i.wellFormed = true
    · by_cases hf : fieldsSet i s
      · rcases request_cases i s hr hw hf with ⟨-, he⟩ | ⟨-, -, he⟩ | ⟨ha, hp, -, he⟩ |
          ⟨ha, hp, done, l, v, rest, left, hops, -, he⟩
        · exact .inl ⟨_, rfl, by simpa using h.symm.trans he⟩
        · exact .inl ⟨_, rfl, by simpa using h.symm.trans he⟩
        · exact .inr (.inl ⟨ha, _, _, .request i hr hw hf hp, by simpa using h.symm.trans he⟩)
        · exact .inr (.inr (.inl ⟨ha, _, done, l, v, left, .request i hr hw hf hp done l v rest hops,
            by simpa using h.symm.trans he⟩))
      · cases i with
        | setCursor col row =>
          have hc : s.cursorAddress col row = none := by
            unfold State.cursorAddress
            simp only [fieldsSet, not_and_or, Option.isSome_iff_ne_none, not_not] at hf
            rcases hf with hf | hf
            · simp [hf]
            · cases s.lineCount <;> simp [hf]
          simp only [exec, execSetCursor, hc] at h
          cases ha : s.admissionError (.setCursor col row) with
          | none => simp [ha] at h
          | some e =>
            simp only [ha, Host.Outcome.next.injEq] at h
            refine .inl ⟨e, ?_, h.symm⟩
            unfold State.admissionError at ha
            split at ha
            · split at ha
              · cases ha
              · cases ha
                rfl
            · cases ha
              rfl
        | _ => simp [fieldsSet] at hf
    · cases i with
      | createChar slot bitmap =>
        simp only [Instr.wellFormed, beq_iff_eq] at hw
        simp [exec, execCreateChar, hw] at h
      | _ => simp [Instr.wellFormed] at hw
  · cases i with
    | initNibble0011 =>
      rcases nib nib8 h (.inl ⟨rfl, rfl⟩) with h | h | h
      · exact .inl h
      · exact .inr (.inl h)
      · exact .inr (.inr (.inl h))
    | initNibble0010 =>
      rcases nib nib4 h (.inr ⟨rfl, rfl⟩) with h | h | h
      · exact .inl h
      · exact .inr (.inl h)
      · exact .inr (.inr (.inl h))
    | drop =>
      rcases drop_cases s with ⟨-, he⟩ | ⟨ha, he⟩
      · exact .inl ⟨_, rfl, by simpa using h.symm.trans he⟩
      · exact .inr (.inr (.inr (.inl ⟨rfl, ha, by simpa using h.symm.trans he⟩)))
    | construct d =>
      rcases construct_cases d s with ⟨c, -, he⟩ | ⟨hb, -, -, he⟩ | ⟨hb, pre, l, id, post, hl, -, he⟩
      · exact .inl ⟨_, rfl, by simpa using h.symm.trans he⟩
      · exact .inr (.inr (.inr (.inr (.inl ⟨d, rfl, hb, by simpa using h.symm.trans he⟩))))
      · exact .inr (.inr (.inr (.inr (.inr ⟨d, pre, l, id, post, rfl, hl, by simpa using h.symm.trans he⟩))))
    | beginInit columns lines m =>
      rcases begin_cases columns lines m s _ rfl with ⟨-, he⟩ | ⟨ha, -, he⟩ |
        ⟨ha, u, before, seg, done, rest, l, v, left, hs, hops, -, he⟩
      · exact .inl ⟨_, rfl, by simpa using h.symm.trans he⟩
      · exact .inr (.inl ⟨ha, _, _, .begin columns lines m _ rfl, by simpa using h.symm.trans he⟩)
      · exact .inr (.inr (.inl ⟨ha, u, before ++ done, l, v, left,
          .begin columns lines m _ u before seg done l v rest rfl hs hops, by simpa using h.symm.trans he⟩))
    | _ => exact absurd rfl hr

/-- What a body performs, or a cut body would have performed, is a list of transfers. -/
theorem Body.transfers {s u : State} {i : Instr} {ops : List BusOp} (h : Body s i u ops) : Transfers s.hasRw ops := by
  cases h with
  | request i => exact transfers_request i s
  | nibble0011 => exact transfers_nib _
  | nibble0010 => exact transfers_nib _
  | begin columns lines m s0 h =>
    subst h
    exact transfers_begin (initStep0 columns lines m s)

theorem Cut.transfers {s u : State} {i : Instr} {done : List BusOp} {l : Line} {v : Level} (h : Cut s i u done l v) :
    ∃ rest, Transfers s.hasRw (done ++ .write l v :: rest) := by
  cases h with
  | request _ _ _ _ _ _ _ _ rest h => exact ⟨rest, h ▸ transfers_request i s⟩
  | nibble0011 _ _ _ _ _ rest h => exact ⟨rest, h ▸ transfers_nib _⟩
  | nibble0010 _ _ _ _ _ rest h => exact ⟨rest, h ▸ transfers_nib _⟩
  | begin columns lines m s0 _ _ _ _ _ _ rest h0 hs h =>
    subst h0
    refine ⟨rest, ?_⟩
    rw [List.append_assoc, ← h]
    cases hs with
    | function => exact transfers_beginFunction (initStep0 columns lines m s)
    | display =>
      exact .append (transfers_beginFunction (initStep0 columns lines m s))
        (transfers_beginDisplay (initStep0 columns lines m s))
    | entry => exact transfers_begin (initStep0 columns lines m s)

/-! ### What a body leaves alone while it writes its fields -/

/-- `u` and `s` share all that no field write of a request touches. -/
structure SameLines (s u : State) : Prop where
  pins : u.pins = s.pins
  busWidth : u.busWidth = s.busWidth
  hasRw : u.hasRw = s.hasRw
  alive : u.alive = s.alive
  levels : u.levels = s.levels
  owned : u.owned = s.owned
  port : u.port = s.port
  answers : u.answers = s.answers
  draws : u.draws = s.draws
  trace : u.trace = s.trace
  returns : u.returns = s.returns

theorem BeginSegment.same {columns lines : Nat} {m : Matrix} {s u : State} {before seg : List BusOp}
    (h : BeginSegment (initStep0 columns lines m s) u before seg) : SameLines s u := by
  cases h <;> exact ⟨rfl, rfl, rfl, rfl, rfl, rfl, rfl, rfl, rfl, rfl, rfl⟩

theorem flagWrite_same (i : Instr) (s : State) : SameLines s (flagWrite i s) := by
  constructor <;> simp

theorem Body.same {s u : State} {i : Instr} {ops : List BusOp} (h : Body s i u ops) : SameLines s u := by
  cases h with
  | request => exact flagWrite_same i s
  | nibble0011 => exact ⟨rfl, rfl, rfl, rfl, rfl, rfl, rfl, rfl, rfl, rfl, rfl⟩
  | nibble0010 => exact ⟨rfl, rfl, rfl, rfl, rfl, rfl, rfl, rfl, rfl, rfl, rfl⟩
  | begin columns lines m s0 h =>
    subst h
    exact ⟨rfl, rfl, rfl, rfl, rfl, rfl, rfl, rfl, rfl, rfl, rfl⟩

theorem Cut.same {s u : State} {i : Instr} {done : List BusOp} {l : Line} {v : Level} (h : Cut s i u done l v) :
    SameLines s u := by
  cases h with
  | request => exact flagWrite_same i s
  | nibble0011 => exact ⟨rfl, rfl, rfl, rfl, rfl, rfl, rfl, rfl, rfl, rfl, rfl⟩
  | nibble0010 => exact ⟨rfl, rfl, rfl, rfl, rfl, rfl, rfl, rfl, rfl, rfl, rfl⟩
  | begin _ _ _ _ _ _ _ _ _ _ _ h0 hs _ =>
    subst h0
    exact hs.same

/-! ### What holds of every list of transfers -/

variable {hasRw : Bool}

/-- RW is only written Low, and only when bound (R24, R66). -/
theorem Transfers.rw_writes {ops : List BusOp} (h : Transfers hasRw ops) (v : Level) (hm : BusOp.write .rw v ∈ ops) :
    v = .low ∧ hasRw = true := by
  induction h with
  | nil => simp at hm
  | append _ _ iha ihb => exact (List.mem_append.mp hm).elim iha ihb
  | rw h => exact ⟨by simpa using hm, h⟩
  | _ => simp [dataWrite, pulseOps] at hm

/-- A list of transfers leaves E Low if it was Low (R34). -/
theorem Transfers.e_low {ops : List BusOp} (h : Transfers hasRw ops) (v : Levels) (hv : v.get .e = .low) :
    (driven ops v).get .e = .low := by
  induction h generalizing v with
  | append _ _ iha ihb =>
    rw [driven_append]
    exact ihb _ (iha _ hv)
  | nil | sleep d => exact hv
  | rs | rw | data => simpa [driven, dataWrite, Levels.get_set] using hv
  | eLow | pulse => simp [driven, pulseOps]

/-! ### A step -/

/-- Everything a step that answers a next state does: nothing with an empty port; else the oldest offer asks for an
instruction, which is executed at the state without that offer. -/
theorem step_cases {s t : State} (h : step s = .next t) :
    (s.port = [] ∧ t = s) ∨
    ∃ o rest i, s.port = o :: rest ∧ o.asked = .ok i ∧ exec i { s with port := rest } = .next t := by
  unfold step at h
  split at h
  · next hp =>
    cases h
    exact .inl ⟨hp, rfl⟩
  · next o rest hp =>
    split at h
    · next i hi => exact .inr ⟨o, rest, i, hp, hi, h⟩
    · cases h

/-- A step that ends in a fault is the fault of the instruction asked for. -/
theorem step_fault {s : State} {f : Fault} (h : step s = .fault f) :
    ∃ o rest i, s.port = o :: rest ∧ o.asked = .ok i ∧ exec i { s with port := rest } = .fault f := by
  unfold step at h
  split at h
  · cases h
  · next o rest hp =>
    split at h
    · next i hi => exact ⟨o, rest, i, hp, hi, h⟩
    · cases h

end Sys2Proof.Machine
end

