-- ==== Sys2Proof/Laws/Observe.lean ====
section
/-! SUPPORT. What the observation functions see of the transfer macros: the latches of NIB and BYTE8, the sleep and the
pulses of a list of transfers. -/

namespace Sys2Proof

@[simp] theorem lvl_bit (b : Bool) : (lvl b).bit = b := by cases b <;> rfl

@[simp] theorem lvl_true : lvl true = .high := rfl

@[simp] theorem lvl_false : lvl false = .low := rfl

@[simp] theorem Level.bit_high : Level.high.bit = true := rfl

@[simp] theorem Level.bit_low : Level.low.bit = false := rfl

/-- A nibble is its four bits. -/
theorem nibble_of_bits : ∀ n : Nibble,
    BitVec.ofBool n[3] ++ BitVec.ofBool n[2] ++ BitVec.ofBool n[1] ++
      BitVec.ofBool n[0] = n := by decide

/-- A byte is its eight bits. -/
theorem byte_of_bits : ∀ b : Byte,
    (BitVec.ofBool b[7] ++ BitVec.ofBool b[6] ++ BitVec.ofBool b[5] ++
      BitVec.ofBool b[4]) ++
    (BitVec.ofBool b[3] ++ BitVec.ofBool b[2] ++ BitVec.ofBool b[1] ++
      BitVec.ofBool b[0]) = b := by decide +kernel

/-- A byte is its two nibbles. -/
theorem byte_of_nibbles : ∀ b : Byte, highNibble b ++ lowNibble b = b := by decide +kernel

namespace Machine

/-! ### Latches, one event at a time -/

variable (v : Levels) (p : Option Latch) (rest : List Event)

@[simp] theorem latchesFrom_nil : latchesFrom v p [] = [] := rfl

@[simp] theorem latchesFrom_s (d : Nat) : latchesFrom v p (.s d :: rest) = latchesFrom v p rest := rfl

@[simp] theorem latchesFrom_wBang (l : Line) (a : Level) :
    latchesFrom v p (.wBang l a :: rest) = latchesFrom v p rest := rfl

@[simp] theorem latchesFrom_rs (a : Level) :
    latchesFrom v p (.w .rs a :: rest) = latchesFrom (v.set .rs a) p rest := by
  cases a <;> cases p <;> rfl

@[simp] theorem latchesFrom_rw (a : Level) :
    latchesFrom v p (.w .rw a :: rest) = latchesFrom (v.set .rw a) p rest := by
  cases a <;> cases p <;> rfl

@[simp] theorem latchesFrom_db (k : Fin 8) (a : Level) :
    latchesFrom v p (.w (.db k) a :: rest) = latchesFrom (v.set (.db k) a) p rest := by
  cases a <;> cases p <;> rfl

@[simp] theorem latchesFrom_e_high :
    latchesFrom v none (.w .e .high :: rest) = latchesFrom (v.set .e .high) (some ⟨v.rs, v.db⟩) rest := rfl

@[simp] theorem latchesFrom_e_low_some (k : Latch) :
    latchesFrom v (some k) (.w .e .low :: rest) = k :: latchesFrom (v.set .e .low) none rest := rfl

@[simp] theorem latchesFrom_e_low_none :
    latchesFrom v none (.w .e .low :: rest) = latchesFrom (v.set .e .low) none rest := rfl

/-! ### Latches of the macros (R69, R160 to R162) -/

/-- A pulse latches the levels as they are, once. -/
theorem latchesFrom_pulse :
    latchesFrom v none (pulseOps.map BusOp.event ++ rest) =
      ⟨v.rs, v.db⟩ :: latchesFrom (driven pulseOps v) none rest := by
  simp [pulseOps, BusOp.event, driven, Levels.set]

/-- The levels a pulse leaves: E Low, nothing else changed. -/
theorem driven_pulse : driven pulseOps v = { v with e := .low } := by simp [pulseOps, driven, Levels.set]

/-- NIB latches its nibble on DB4..DB7, once, with RS as it stands. -/
theorem latchesFrom_nib (n : Nibble) :
    latchesFrom v none ((nibOps n).map BusOp.event ++ rest) =
      ⟨v.rs, { v.db with d4 := lvl (n.getLsbD 0), d5 := lvl (n.getLsbD 1), d6 := lvl (n.getLsbD 2), d7 := lvl (n.getLsbD 3) }⟩ ::
        latchesFrom (driven (nibOps n) v) none rest := by
  simp only [nibOps, List.map_append, List.append_assoc, driven_append]
  simp only [List.map_cons, List.map_nil, dataWrite, BusOp.event, List.cons_append, List.nil_append, latchesFrom_db,
    latchesFrom_pulse, driven, Levels.set, Data8.set]

/-- BYTE8 latches its byte on DB0..DB7, once, with RS as it stands. -/
theorem latchesFrom_byte8 (b : Byte) :
    latchesFrom v none ((byte8Ops b).map BusOp.event ++ rest) =
      ⟨v.rs, ⟨lvl (b.getLsbD 0), lvl (b.getLsbD 1), lvl (b.getLsbD 2), lvl (b.getLsbD 3), lvl (b.getLsbD 4), lvl (b.getLsbD 5), lvl (b.getLsbD 6), lvl (b.getLsbD 7)⟩⟩ ::
        latchesFrom (driven (byte8Ops b) v) none rest := by
  simp only [byte8Ops, List.map_append, List.append_assoc, driven_append]
  simp only [List.map_cons, List.map_nil, dataWrite, BusOp.event, List.cons_append, List.nil_append, latchesFrom_db,
    latchesFrom_pulse, driven, Levels.set, Data8.set]

/-- The latch of a NIB that ends a trace. -/
theorem latchesFrom_nib_last (n : Nibble) :
    latchesFrom v none ((nibOps n).map BusOp.event) =
      [⟨v.rs, { v.db with d4 := lvl n[0], d5 := lvl n[1], d6 := lvl n[2], d7 := lvl n[3] }⟩] := by
  simpa using latchesFrom_nib v [] n

/-- The latch of a BYTE8 that ends a trace. -/
theorem latchesFrom_byte8_last (b : Byte) :
    latchesFrom v none ((byte8Ops b).map BusOp.event) =
      [⟨v.rs, ⟨lvl b[0], lvl b[1], lvl b[2], lvl b[3], lvl b[4], lvl b[5], lvl b[6], lvl b[7]⟩⟩] := by
  simpa using latchesFrom_byte8 v [] b

/-- NIB and BYTE8 do not touch RS. -/
@[simp] theorem driven_nib_rs (n : Nibble) : (driven (nibOps n) v).rs = v.rs := by
  simp [nibOps, driven, dataWrite, driven_pulse, Levels.set]

@[simp] theorem driven_byte8_rs (b : Byte) : (driven (byte8Ops b) v).rs = v.rs := by
  simp [byte8Ops, driven, dataWrite, driven_pulse, Levels.set]

/-! ### Prefixes of a trace, and its words (R92) -/

/-- A longer trace latches what a prefix of it latches, and then more. -/
theorem latchesFrom_prefix (b : List Event) : ∀ (a : List Event) (v : Levels) (p : Option Latch),
    latchesFrom v p a <+: latchesFrom v p (a ++ b)
  | [], _, _ => by simp
  | .s _ :: a, v, p => latchesFrom_prefix b a v p
  | .q _ :: a, v, p => latchesFrom_prefix b a v p
  | .qBang _ :: a, v, p => latchesFrom_prefix b a v p
  | .x _ :: a, v, p => latchesFrom_prefix b a v p
  | .wBang _ _ :: a, v, p => latchesFrom_prefix b a v p
  | .w .rs l :: a, v, p => by simpa using latchesFrom_prefix b a _ p
  | .w .rw l :: a, v, p => by simpa using latchesFrom_prefix b a _ p
  | .w (.db k) l :: a, v, p => by simpa using latchesFrom_prefix b a _ p
  | .w .e .high :: a, v, none => by simpa using latchesFrom_prefix b a _ _
  | .w .e .high :: a, v, some k => latchesFrom_prefix b a (v.set .e .high) (some k)
  | .w .e .low :: a, v, none => by simpa using latchesFrom_prefix b a _ none
  | .w .e .low :: a, v, some k => by simpa using latchesFrom_prefix b a _ none

theorem pairNibbles_prefix (b : List Latch) : ∀ a : List Latch, pairNibbles a <+: pairNibbles (a ++ b)
  | [] => by simp [pairNibbles]
  | [_] => by simp [pairNibbles]
  | h :: l :: a => by
    simp only [List.cons_append, pairNibbles, List.cons_prefix_cons, true_and]
    exact pairNibbles_prefix b a

/-- More latches deliver the same bytes, and then more. -/
theorem delivered_prefix (w : BusWidth) {a c : List Latch} (h : a <+: c) : delivered w a <+: delivered w c := by
  obtain ⟨b, rfl⟩ := h
  cases w with
  | w8 => simp [delivered]
  | w4 => exact pairNibbles_prefix b a

/-- Where no single nibble is among the latches, the words are the delivered bytes. -/
theorem wordsOf_zero (w : BusWidth) (k : List Latch) :
    wordsOf w 0 k = (delivered w k).map fun p => .byte p.1 p.2 := by
  cases w <;> simp [wordsOf, delivered]

/-! ### Sleeps -/

@[simp] theorem requestedSleep_append (a b : List Event) :
    requestedSleep (a ++ b) = requestedSleep a + requestedSleep b := by
  induction a with
  | nil => simp [requestedSleep]
  | cons e rest ih =>
    cases e with
    | s d => simp only [List.cons_append, requestedSleep, ih]; omega
    | q l => exact ih
    | qBang l => exact ih
    | x l => exact ih
    | w l a => exact ih
    | wBang l a => exact ih

/-! ### The last write of a line -/

theorem lastWrite_append (l : Line) (a b : List Event) :
    lastWrite l (a ++ b) = (lastWrite l b).or (lastWrite l a) := by
  simp [lastWrite, List.find?_append]

/-! ### The events of a list of transfers -/

/-- The writes among the events of a performed list are the list's writes. -/
theorem w_mem_events (ops : List BusOp) (l : Line) (v : Level) :
    Event.w l v ∈ ops.map BusOp.event ↔ BusOp.write l v ∈ ops := by
  induction ops with
  | nil => simp
  | cons op ops ih => cases op <;> simp [BusOp.event, ih] at *

/-- A performed list holds no refused write. -/
theorem wBang_not_mem_events (ops : List BusOp) (l : Line) (v : Level) : Event.wBang l v ∉ ops.map BusOp.event := by
  induction ops with
  | nil => simp
  | cons op ops ih => cases op <;> simp_all [BusOp.event]

/-- The shadow of a line after a performed list is what the events say of it (R33). -/
theorem lastWrite_events (l : Line) (ops : List BusOp) (v : Levels) :
    (lastWrite l (ops.map BusOp.event) = none ∧ (driven ops v).get l = v.get l) ∨
    ∃ a, lastWrite l (ops.map BusOp.event) = some (.w l a) ∧ (driven ops v).get l = a := by
  induction ops using List.reverseRecOn with
  | nil => exact .inl ⟨rfl, rfl⟩
  | append_singleton ops op ih =>
    rw [List.map_append, lastWrite_append, driven_append]
    cases op with
    | sleep d => simpa [lastWrite, driven, BusOp.event] using ih
    | write l' a =>
      by_cases hl : l' = l
      · subst hl
        exact .inr ⟨a, by simp [lastWrite, BusOp.event], by simp [driven]⟩
      · have hd : (driven [.write l' a] (driven ops v)).get l = (driven ops v).get l :=
          Levels.get_set_other _ (Ne.symm hl) a
        rw [hd]
        simpa [lastWrite, BusOp.event, hl] using ih

end Machine
end Sys2Proof
end

