-- ==== Sys2Proof/Laws/PerInstr.lean ====
section
/-! SUPPORT. One lemma per constructor of `Instr`: the word the encoder writes is read back as the instruction. A request
has no word (R97), so its lemma has nothing to read. -/

namespace Sys2Proof.Laws.RoundTrip

/-- The word of `i`, if it has one, decodes to `i` (R93, R95, R130). -/
def Statement (i : Instr) : Prop := ∀ w, encode i = some w → decode w = .ok i

theorem of_word {i : Instr} {w : BusWord} (he : encode i = some w) (hd : decode w = .ok i) : Statement i := by
  intro w' h
  rw [he] at h
  cases h
  exact hd

theorem clearDisplay : Statement .clearDisplay := of_word rfl (by decide)

theorem returnHome (x : BitVec 1) : Statement (.returnHome x) := of_word rfl (by revert x; decide)

theorem entryModeSet (ltr shift : Bool) : Statement (.entryModeSet ltr shift) :=
  of_word rfl (by cases ltr <;> cases shift <;> decide)

theorem displayControl (d c b : Bool) : Statement (.displayControl d c b) :=
  of_word rfl (by cases d <;> cases c <;> cases b <;> decide)

theorem cursorOrDisplayShift (t : ShiftTarget) (r : Direction) (x : BitVec 2) :
    Statement (.cursorOrDisplayShift t r x) :=
  of_word rfl (by revert x; cases t <;> cases r <;> decide)

theorem functionSet (l : BusWidth) (n : LineCount) (f : Matrix) (x : BitVec 2) : Statement (.functionSet l n f x) :=
  of_word rfl (by revert x; cases l <;> cases n <;> cases f <;> decide)

theorem setCgramAddress (a : BitVec 6) : Statement (.setCgramAddress a) := of_word rfl (by revert a; decide)

theorem setDdramAddress (a : BitVec 7) : Statement (.setDdramAddress a) := of_word rfl (by revert a; decide)

theorem writeData (d : Byte) : Statement (.writeData d) := of_word rfl (by revert d; decide +kernel)

theorem initNibble0011 : Statement .initNibble0011 := of_word rfl (by decide)

theorem initNibble0010 : Statement .initNibble0010 := of_word rfl (by decide)

theorem construct (d : Binding) : Statement (.construct d) := fun _ h => by cases h

theorem drop : Statement .drop := fun _ h => by cases h

theorem beginInit (columns lines : Nat) (m : Matrix) : Statement (.beginInit columns lines m) := fun _ h => by cases h

theorem command (b : Byte) : Statement (.command b) := fun _ h => by cases h

theorem write (b : Byte) : Statement (.write b) := fun _ h => by cases h

theorem setCursor (col row : Nat) : Statement (.setCursor col row) := fun _ h => by cases h

theorem print (text : List Byte) : Statement (.print text) := fun _ h => by cases h

theorem clear : Statement .clear := fun _ h => by cases h

theorem home : Statement .home := fun _ h => by cases h

theorem display : Statement .display := fun _ h => by cases h

theorem noDisplay : Statement .noDisplay := fun _ h => by cases h

theorem cursor : Statement .cursor := fun _ h => by cases h

theorem noCursor : Statement .noCursor := fun _ h => by cases h

theorem blink : Statement .blink := fun _ h => by cases h

theorem noBlink : Statement .noBlink := fun _ h => by cases h

theorem leftToRight : Statement .leftToRight := fun _ h => by cases h

theorem rightToLeft : Statement .rightToLeft := fun _ h => by cases h

theorem autoscroll : Statement .autoscroll := fun _ h => by cases h

theorem noAutoscroll : Statement .noAutoscroll := fun _ h => by cases h

theorem scrollDisplayLeft : Statement .scrollDisplayLeft := fun _ h => by cases h

theorem scrollDisplayRight : Statement .scrollDisplayRight := fun _ h => by cases h

theorem createChar (slot : Nat) (bitmap : List Byte) : Statement (.createChar slot bitmap) := fun _ h => by cases h

end Sys2Proof.Laws.RoundTrip
end

