-- ==== Sys2Proof/Tests/Slice0.lean ====
section
/-! SUPPORT. Tests. Expected values come from spec/95_test_vectors.md (V-…, L1-…), from the patterns of R93 and R130, and
from opcode_table.json; each theorem names its source. Then a witness for every statement that has hypotheses. -/

namespace Sys2Proof.Tests

open Sys2Proof.Machine

/-! ### Small states -/

/-- The W4 binding of P1. -/
def pins4 : Binding :=
  { rs := some 25, rw := none, e := some 24
    db := ⟨none, none, none, none, some 23, some 17, some 18, some 22⟩ }

/-- The W8 binding of P2, with RW. -/
def pins8 : Binding :=
  { rs := some 25, rw := some 27, e := some 24
    db := ⟨some 5, some 6, some 12, some 13, some 23, some 17, some 18, some 22⟩ }

/-- `n` grants of the backend. -/
def oks (n : Nat) : List Answer := List.replicate n .ok

/-- An engine just constructed on `d`, with the backend's next answers. -/
def fresh (d : Binding) (answers : List Answer) : State :=
  { State.reset with pins := d, busWidth := bindingWidth d, hasRw := d.rw.isSome, alive := true, answers := answers }

/-- The same within `begin`, where step 2 starts (R202). -/
def forced (d : Binding) (answers : List Answer) : State := { fresh d answers with phase := .forcedIdle }

/-- The same after `begin(16, 2, M5x8)` (V-INIT-1). -/
def ready (d : Binding) (answers : List Answer) : State :=
  { fresh d answers with
    phase := .ready, lineCount := some .two, matrix := some .m5x8, rowOffsets := some ⟨0x00, 0x40, 0x10, 0x50⟩ }

/-- The next state, or the same one if there is none. -/
def after (i : Instr) (s : State) : State :=
  match exec i s with
  | .next t => t
  | .fault _ => s
  | .refused _ => s

/-- The next state of a step, or the same one if there is none. -/
def stepped (s : State) : State :=
  match step s with
  | .next t => t
  | .fault _ => s
  | .refused _ => s

/-- The refusal of a step, if it is one. -/
def refusal (s : State) : Option Refusal :=
  match step s with
  | .next _ => none
  | .fault _ => none
  | .refused r => some r

/-- Whether an instruction answers a next state. -/
def runs (i : Instr) (s : State) : Bool :=
  match exec i s with
  | .next _ => true
  | .fault _ => false
  | .refused _ => false

theorem exec_after {i : Instr} {s : State} (h : runs i s = true) : exec i s = .next (after i s) := by
  unfold runs at h
  unfold after
  split at h
  · next heq => rw [heq]
  · cases h
  · cases h

theorem exec_some {i : Instr} {s : State} (h : runs i s = true) : ∃ t, exec i s = .next t := ⟨_, exec_after h⟩

/-- Whether a step answers a next state. -/
def steps (s : State) : Bool :=
  match step s with
  | .next _ => true
  | .fault _ => false
  | .refused _ => false

theorem step_stepped {s : State} (h : steps s = true) : step s = .next (stepped s) := by
  unfold steps at h
  unfold stepped
  split at h
  · next heq => rw [heq]
  · cases h
  · cases h

/-- The bytes an instruction delivers. -/
def sent (i : Instr) (s : State) : List (Level × Byte) := delivered s.busWidth (latches s.levels (after i s).trace)

/-- A backend that grants `n` calls and then refuses one, leaving the line High. -/
def okThenFail (n : Nat) : List Answer := oks n ++ [.fail .high]

theorem grants_of_oks {s : State} {n : Nat} (h : s.answers = oks n) : s.grants n := by
  intro k hk
  simp only [State.answerAt, h, oks, List.getElem?_replicate, if_pos hk]

theorem refusesAt_of_okThenFail {s : State} {n : Nat} (h : s.answers = okThenFail n) : s.refusesAt n .high := by
  constructor
  · intro k hk
    simp [State.answerAt, h, okThenFail, oks, List.getElem?_append, hk]
  · simp [State.answerAt, h, okThenFail, oks]

/-! ### WellFormed: the one check, on an ill-formed term and a well-formed one (R257) -/

theorem test_wellFormed_refuses_short_bitmap : (Instr.createChar 1 [0, 1, 2]).wellFormed = false := by decide

theorem test_wellFormed_admits_eight_bytes : (Instr.createChar 1 [0, 1, 2, 3, 4, 5, 6, 7]).wellFormed = true := by
  decide

/-! ### Decoding: words written out bit by bit from R93 and R130 -/

theorem test_decode_clearDisplay : decode (.word 0b0_0000_0001#9) = .ok .clearDisplay := by decide
theorem test_decode_returnHome : decode (.word 0b0_0000_0011#9) = .ok (.returnHome 1#1) := by decide
theorem test_decode_entryModeSet : decode (.word 0b0_0000_0101#9) = .ok (.entryModeSet false true) := by decide
theorem test_decode_displayControl : decode (.word 0b0_0000_1110#9) = .ok (.displayControl true true false) := by decide
theorem test_decode_cursorOrDisplayShift :
    decode (.word 0b0_0001_0110#9) = .ok (.cursorOrDisplayShift .cursor .right 2#2) := by decide
theorem test_decode_functionSet : decode (.word 0b0_0010_1000#9) = .ok (.functionSet .w4 .two .m5x8 0#2) := by decide
theorem test_decode_setCgramAddress : decode (.word 0b0_0100_1000#9) = .ok (.setCgramAddress 0b001000#6) := by decide
theorem test_decode_setDdramAddress : decode (.word 0b0_1101_0000#9) = .ok (.setDdramAddress 0b1010000#7) := by decide
theorem test_decode_writeData : decode (.word 0b1_0000_0000#9) = .ok (.writeData 0#8) := by decide
theorem test_decode_initNibble0011 : decode (.nibble 0b0011#4) = .ok .initNibble0011 := by decide
theorem test_decode_initNibble0010 : decode (.nibble 0b0010#4) = .ok .initNibble0010 := by decide

/-- R96 and R130: what is outside the table is refused by name; so are spare bits and bad lengths (log 12). -/
theorem test_decode_refuses :
    decode (.word 0#9) = .error .noInstruction ∧ decode (.nibble 0#4) = .error .notNegotiationNibble ∧
    decodeBytes [] = .error .badLength ∧ decodeBytes [0, 2] = .error .spareBits ∧ decodeBytes [0x13] = .error .spareBits ∧
    decodeBytes [1, 0, 0] = .error .badLength := by decide

/-- The `match` column of opcode_table.json, row by row. -/
theorem test_decodeTableWord :
    [decodeTableWord 9 1, decodeTableWord 9 2, decodeTableWord 9 4, decodeTableWord 9 8, decodeTableWord 9 16,
      decodeTableWord 9 32, decodeTableWord 9 64, decodeTableWord 9 128, decodeTableWord 9 256, decodeTableWord 4 3,
      decodeTableWord 4 2] =
    [some .clearDisplay, some (.returnHome 0), some (.entryModeSet false false),
      some (.displayControl false false false), some (.cursorOrDisplayShift .cursor .left 0),
      some (.functionSet .w4 .one .m5x8 0), some (.setCgramAddress 0), some (.setDdramAddress 0), some (.writeData 0),
      some .initNibble0011, some .initNibble0010] := by decide

/-- V-CG and V-DD. -/
theorem test_cg_and_dd :
    cgByte 9 = 0x48#8 ∧ cgByte 255 = 0x78#8 ∧ ddByte 0x7F = 0xFF#8 ∧ ddByte 0x80 = 0x80#8 ∧ ddByte 0x145 = 0xC5#8 := by
  decide

/-! ### Steps -/

/-- A word offered to a Ready engine is sent: the step of `withFetchWord`. -/
theorem test_step_runs_word :
    let s := (ready pins4 (oks 16)).withFetchWord 9 0x0C
    delivered .w4 (latches s.levels (stepped s).trace) = [(.low, 0x0C#8)] ∧ (stepped s).port = [] := by decide +kernel

/-- On the machine before any request a word is answered with Dropped (R305). -/
theorem test_step_word_at_reset :
    (stepped (State.reset.withFetchWord 4 3)).returns = [.err (.dropped .initNibble0011)] := by decide +kernel

theorem test_step_refuses_undecodable :
    refusal (State.reset.withFetchWord 9 0) = some (.undecodable .noInstruction) := by decide +kernel

theorem test_step_nibble_on_byte_bus :
    refusal ((ready pins8 []).withFetchWord 4 2) = some .nibbleOnByteBus := by decide +kernel

/-- "RS held Low" and "only from" R203 (R130): no nibble after `begin`, before it, or with RS High. -/
theorem test_step_nibble_outside_negotiation :
    refusal ((ready pins4 []).withFetchWord 4 3) = some .nibbleOutsideNegotiation ∧
    refusal ((fresh pins4 []).withFetchWord 4 3) = some .nibbleOutsideNegotiation ∧
    refusal ({ forced pins4 [] with levels := (fresh pins4 []).levels.set .rs .high }.withFetchWord 4 3) =
      some .nibbleOutsideNegotiation := by decide +kernel

/-- U15's example: a cursor-move request is no call of R97. -/
theorem test_step_refuses_call_outside_table :
    refusal { ready pins4 [] with port := [.call (.cursorOrDisplayShift .cursor .right 0#2)] } = some .malformedCall := by
  decide +kernel

/-! ### Bus words as instructions (log 3, log 4) -/

theorem test_exec_bus_words :
    sent .clearDisplay (ready pins4 (oks 16)) = [(.low, 0x01#8)] ∧
    sent (.returnHome 1#1) (ready pins4 (oks 16)) = [(.low, 0x03#8)] ∧
    sent (.entryModeSet true true) (ready pins4 (oks 16)) = [(.low, 0x07#8)] ∧
    sent (.displayControl false true true) (ready pins8 (oks 13)) = [(.low, 0x0B#8)] ∧
    sent (.cursorOrDisplayShift .cursor .right 0#2) (ready pins8 (oks 13)) = [(.low, 0x14#8)] := by decide +kernel

theorem test_exec_bus_words_wide :
    sent (.functionSet .w8 .two .m5x8 0#2) (ready pins8 (oks 13)) = [(.low, 0x38#8)] ∧
    sent (.setCgramAddress 0x3F#6) (ready pins8 (oks 13)) = [(.low, 0x7F#8)] ∧
    sent (.setDdramAddress 0x7F#7) (ready pins4 (oks 16)) = [(.low, 0xFF#8)] ∧
    sent (.writeData 0x80#8) (ready pins4 (oks 16)) = [(.high, 0x80#8)] := by decide +kernel

/-- A raw bus word changes no field (R165): FunctionSet leaves the engine's own record alone. -/
theorem test_exec_functionSet_keeps_fields :
    (after (.functionSet .w8 .one .m5x10 0#2) (ready pins4 (oks 16))).matrix = some .m5x8 := by decide +kernel

/-- `NIB_8` drives DB4 = High, DB5 = High, DB6 = Low, DB7 = Low (R130), then PULSE; RS is not written (D16). -/
theorem test_exec_initNibble0011 :
    (after .initNibble0011 (forced pins4 (oks 7))).trace =
      [.w (.db 4) .high, .w (.db 5) .high, .w (.db 6) .low, .w (.db 7) .low, .w .e .low, .s 1, .w .e .high, .s 1,
        .w .e .low, .s 100] := by decide +kernel

/-- R309: in Faulted a nibble is answered NotReady. -/
theorem test_exec_nibble_faulted :
    (after .initNibble0010 { fresh pins4 [] with phase := .faulted }).returns =
      [.err (.notReady .initNibble0010 .faulted)] := by decide +kernel

theorem test_exec_initNibble0010 :
    (latches State.reset.levels (after .initNibble0010 (forced pins4 (oks 7))).trace).map Latch.nibble = [0b0010#4] := by
  decide +kernel

/-! ### Construction and teardown -/

/-- V-ERR-12: eleven requests, in order; P1: six. -/
theorem test_construct :
    (after (.construct pins8) { State.reset with answers := oks 11 }).trace =
      [.q .rs, .q .rw, .q .e, .q (.db 0), .q (.db 1), .q (.db 2), .q (.db 3), .q (.db 4), .q (.db 5), .q (.db 6),
        .q (.db 7)] ∧
    (after (.construct pins4) { State.reset with answers := oks 6 }).busWidth = .w4 := by decide +kernel

/-- V-ERR-5: the backend refuses DB5; the lines held are released in reverse order, and no engine exists. -/
theorem test_construct_refused :
    let t := after (.construct { pins4 with rw := some 27 })
      { State.reset with answers := [.ok, .ok, .ok, .ok, .fail .low] }
    t.trace = [.q .rs, .q .rw, .q .e, .q (.db 4), .qBang (.db 5), .x (.db 4), .x .e, .x .rw, .x .rs] ∧
    t.returns = [.err (.lineBinding (.lineRefused (.db 5)))] ∧ t.alive = false := by decide +kernel

/-- V-ERR-11: `drop`, and `begin` after it. -/
theorem test_drop :
    let t := after .drop (ready pins4 [])
    t.trace = [.x .rs, .x .e, .x (.db 4), .x (.db 5), .x (.db 6), .x (.db 7)] ∧ t.alive = false ∧ t.phase = .ready ∧
    (after (.beginInit 16 2 .m5x8) t).returns = [.ok, .err (.dropped (.beginInit 16 2 .m5x8))] := by decide +kernel

/-- R300, R341: the repeated line id is recorded, and the codes are those of the table. -/
theorem test_construct_repeated_line :
    (after (.construct { pins4 with e := some 22 }) State.reset).returns =
      [.err (.lineBinding (.duplicateLineId 22))] ∧
    [(Error.lineBinding .rsMissing).code, (Error.lineWrite .e .low 0).code, (Error.notReady .clear .faulted).code,
      (Error.dropped .clear).code] = [1, 2, 16, 17] := by decide +kernel

/-! ### begin -/

/-- V-INIT-1: 131 events, the latches, the end state. -/
theorem test_begin_w4 :
    let t := after (.beginInit 16 2 .m5x8) (fresh pins4 (oks 100))
    t.trace.length = 131 ∧
    received (.beginInit 16 2 .m5x8) .w4 (latches State.reset.levels t.trace) =
      [.nibble .low 3#4, .nibble .low 3#4, .nibble .low 3#4, .nibble .low 2#4, .byte .low 0x28#8, .byte .low 0x0C#8,
        .byte .low 0x01#8, .byte .low 0x06#8] ∧
    t.rowOffsets = some ⟨0x00, 0x40, 0x10, 0x50⟩ ∧ t.phase = .ready := by decide +kernel

/-- V-INIT-2 with RW bound: 119 events; 5×10 on one line. -/
theorem test_begin_w8 :
    let t := after (.beginInit 20 1 .m5x10) (fresh pins8 (oks 100))
    t.trace.length = 119 ∧ delivered .w8 (latches State.reset.levels t.trace) =
      [(.low, 0x34#8), (.low, 0x34#8), (.low, 0x34#8), (.low, 0x34#8), (.low, 0x0C#8), (.low, 0x01#8), (.low, 0x06#8)] ∧
    t.matrix = some .m5x10 := by decide +kernel

/-! ### Requests (V-TX, V-REQ, V-SC, V-ERR) -/

/-- V-TX-3's bytes; V-TX-4's: a byte the encoder never makes. -/
theorem test_command :
    sent (.command 0xA5#8) (ready pins4 (oks 16)) = [(.low, 0xA5#8)] ∧
    sent (.command 0x00#8) (ready pins8 (oks 13)) = [(.low, 0x00#8)] := by decide +kernel

/-- V-TX-1, the whole trace. -/
theorem test_write :
    (after (.write 0xA5#8) (ready pins4 (oks 16))).trace =
      [.w .rs .high, .w (.db 4) .low, .w (.db 5) .high, .w (.db 6) .low, .w (.db 7) .high, .w .e .low, .s 1, .w .e .high,
        .s 1, .w .e .low, .s 100, .w (.db 4) .high, .w (.db 5) .low, .w (.db 6) .high, .w (.db 7) .low, .w .e .low, .s 1,
        .w .e .high, .s 1, .w .e .low, .s 100] := by decide +kernel

/-- V-ERR-6: the refused write is DB4 of the second nibble. -/
theorem test_write_refused :
    let t := after (.write 0x48#8) (ready pins4 (oks 8 ++ [.fail .high]))
    t.trace.length = 12 ∧ t.phase = .faulted ∧ t.returns = [.err (.lineWrite (.db 4) .low 11)] ∧
    t.levels.get (.db 4) = .high ∧ t.levels.get (.db 6) = .high := by decide +kernel

/-- V-SC: rows 1 and 5, and a column past 7 bits. -/
theorem test_setCursor :
    sent (.setCursor 0 1) (ready pins4 (oks 16)) = [(.low, 0xC0#8)] ∧
    sent (.setCursor 0 5) (ready pins4 (oks 16)) = [(.low, 0xC0#8)] ∧
    sent (.setCursor 1000 0) (ready pins8 (oks 13)) = [(.low, 0xE8#8)] := by decide +kernel

/-- V-REQ-2 and V-REQ-3. -/
theorem test_print :
    sent (.print [0x48#8, 0x69#8]) (ready pins4 (oks 32)) = [(.high, 0x48#8), (.high, 0x69#8)] ∧
    (after (.print []) (ready pins4 [])).trace = [] := by decide +kernel

/-- V-REQ-4: the byte and the settle. -/
theorem test_clear :
    sent .clear (ready pins4 (oks 16)) = [(.low, 0x01#8)] ∧
    requestedSleep (after .clear (ready pins4 (oks 16))).trace = 2204 := by decide +kernel

/-- V-REQ-5. -/
theorem test_home :
    sent .home (ready pins8 (oks 13)) = [(.low, 0x02#8)] ∧
    requestedSleep (after .home (ready pins8 (oks 13))).trace = 2102 := by decide +kernel

/-- R245's example: cursor on, blink off, display off. -/
theorem test_display :
    sent .display { ready pins4 (oks 16) with displayOn := false, cursorOn := true } = [(.low, 0x0E#8)] := by
  decide +kernel

/-- V-REQ-7, and V-ERR-9: the flag stays written when the first write is refused. -/
theorem test_noDisplay :
    sent .noDisplay (ready pins4 (oks 16)) = [(.low, 0x08#8)] ∧
    (after .noDisplay (ready pins8 [.fail .low])).displayOn = false ∧
    (after .noDisplay (ready pins8 [.fail .low])).trace = [.wBang .rs .low] := by decide +kernel

/-- V-REQ-8. -/
theorem test_cursor :
    sent .cursor (ready pins4 (oks 16)) = [(.low, 0x0E#8)] ∧ (after .cursor (ready pins4 (oks 16))).cursorOn = true := by
  decide +kernel

/-- R248's example. -/
theorem test_noCursor :
    sent .noCursor { ready pins4 (oks 16) with cursorOn := true, blinkOn := true } = [(.low, 0x0D#8)] := by
  decide +kernel

/-- V-REQ-10. -/
theorem test_blink :
    sent .blink (ready pins4 (oks 16)) = [(.low, 0x0D#8)] ∧ (after .blink (ready pins4 (oks 16))).blinkOn = true := by
  decide +kernel

/-- R250's example. -/
theorem test_noBlink :
    sent .noBlink { ready pins4 (oks 16) with cursorOn := true, blinkOn := true } = [(.low, 0x0E#8)] := by decide +kernel

/-- P3, request 13: right to left before. -/
theorem test_leftToRight :
    sent .leftToRight { ready pins4 (oks 16) with entryLtr := false } = [(.low, 0x06#8)] := by decide +kernel

/-- V-REQ-13. -/
theorem test_rightToLeft :
    sent .rightToLeft (ready pins4 (oks 16)) = [(.low, 0x04#8)] ∧
    (after .rightToLeft (ready pins4 (oks 16))).entryLtr = false := by decide +kernel

/-- V-REQ-14. -/
theorem test_autoscroll :
    sent .autoscroll (ready pins4 (oks 16)) = [(.low, 0x07#8)] ∧
    (after .autoscroll (ready pins4 (oks 16))).entryShift = true := by decide +kernel

/-- R254's example. -/
theorem test_noAutoscroll :
    sent .noAutoscroll { ready pins4 (oks 16) with entryLtr := false, entryShift := true } = [(.low, 0x04#8)] := by
  decide +kernel

/-- V-REQ-16. -/
theorem test_scrollDisplayLeft : sent .scrollDisplayLeft (ready pins4 (oks 16)) = [(.low, 0x18#8)] := by decide +kernel

/-- V-REQ-17. -/
theorem test_scrollDisplayRight : sent .scrollDisplayRight (ready pins8 (oks 13)) = [(.low, 0x1C#8)] := by decide +kernel

/-- V-REQ-18 (L1-5). -/
theorem test_createChar :
    sent (.createChar 9 [0x00#8, 0x0A#8, 0x1F#8, 0x1F#8, 0x0E#8, 0x04#8, 0x00#8, 0x00#8]) (ready pins4 (oks 144)) =
      [(.low, 0x48#8), (.high, 0x00#8), (.high, 0x0A#8), (.high, 0x1F#8), (.high, 0x1F#8), (.high, 0x0E#8),
        (.high, 0x04#8), (.high, 0x00#8), (.high, 0x00#8)] := by decide +kernel

/-- V-ERR-1: NotReady before `begin`, no event. -/
theorem test_notReady :
    let t := after (.write 0x48#8) (fresh pins4 [])
    t.returns = [.err (.notReady (.write 0x48#8) .poweredUnknown)] ∧ t.trace = [] := by decide +kernel

/-! ### Witnesses: concrete states and operands that meet the hypotheses of each statement -/

/-- The hypotheses of the four clauses of `AnswersAt`, for a request whose transfers are `ops` on an engine bound to `d`:
not alive; alive and not Ready; Ready and granted; Ready and refused. -/
def Met (d : Binding) (ops : List BusOp) : Prop :=
  State.reset.alive = false ∧ ((fresh d []).alive = true ∧ (fresh d []).phase ≠ .ready) ∧
  ((ready d (oks (countWrites ops))).alive = true ∧ (ready d (oks (countWrites ops))).phase = .ready ∧
    (ready d (oks (countWrites ops))).grants (countWrites ops)) ∧
  ∃ done l v rest, ops = done ++ .write l v :: rest ∧
    (ready d (okThenFail (countWrites done))).alive = true ∧
    (ready d (okThenFail (countWrites done))).phase = .ready ∧
    (ready d (okThenFail (countWrites done))).refusesAt (countWrites done) .high

theorem ready_answers (d : Binding) (a : List Answer) : (ready d a).answers = a := rfl

theorem met (d : Binding) {ops done rest : List BusOp} {l : Line} {v : Level} (h : ops = done ++ .write l v :: rest) :
    Met d ops :=
  ⟨rfl, ⟨rfl, nofun⟩, ⟨rfl, rfl, grants_of_oks (ready_answers _ _)⟩, done, l, v, rest, h, rfl, rfl,
    refusesAt_of_okThenFail (ready_answers _ _)⟩

/-- Every SEND starts with a write, the first that can be refused. -/
theorem met_send (d : Binding) (w : BusWidth) (rw : Bool) (b : Byte) (rs : Level) (rest : List BusOp) :
    Met d (sendOps w rw b rs ++ rest) := by
  have h : ∃ tail, sendOps w rw b rs = .write .rs rs :: tail := by cases w <;> exact ⟨_, rfl⟩
  obtain ⟨tail, h⟩ := h
  exact met d (done := []) (l := .rs) (v := rs) (rest := tail ++ rest) (by rw [h]; rfl)

theorem met_send_alone (d : Binding) (w : BusWidth) (rw : Bool) (b : Byte) (rs : Level) : Met d (sendOps w rw b rs) :=
  List.append_nil (sendOps w rw b rs) ▸ met_send d w rw b rs []

theorem witness_DecodeEncodeAgree : encode (.setDdramAddress 0x7F#7) = some (.word 0xFF#9) := by decide

theorem witness_EncodeDecodeAgree :
    decode (.word 0x1FF#9) = .ok (.writeData 0xFF#8) ∧ decode (.nibble 2#4) = .ok .initNibble0010 := by decide

theorem witness_DecodePicksHighestSetBit :
    0x01#8 ≠ 0#8 ∧ 0xFF#8 ≠ 0#8 ∧ (ready pins4 []).lineCount = some .two ∧ (ready pins4 []).matrix = some .m5x8 ∧
    Met pins4 (sendOps .w4 false 0x00#8 .low) := ⟨by decide, by decide, rfl, rfl, met_send_alone _ _ _ _ _⟩

theorem witness_FunctionSetReachesSixValues :
    let s : State := { State.reset with matrix := some .m5x10, lineCount := some .one }
    s.matrixOk ∧ s.lineCount.isSome = true ∧ s.matrix.isSome = true ∧ s.fs = 0x24#8 ∧ (ready pins8 []).matrixOk :=
  ⟨fun _ => rfl, rfl, rfl, by decide, nofun⟩

theorem witness_StepRunsTheOldestOffer :
    ({ State.reset with port := [.call .clear] } : State).port = .call .clear :: [] ∧ encode .clear = none ∧
    ({ State.reset with port := [.call .clearDisplay] } : State).port = .call .clearDisplay :: [] ∧
    encode .clearDisplay = some (.word 1#9) ∧
    (State.reset.withFetchWord 9 1).port = .word [1, 0] :: [] ∧ decodeBytes [1, 0] = .ok .clearDisplay ∧
    (State.reset.withFetchWord 9 0).port = .word [0, 0] :: [] ∧ decodeBytes [0, 0] = .error .noInstruction := by decide

theorem witness_IdleEngineStaysPut : State.reset.port = [] := rfl

theorem witness_ConstructGivesTheResetState :
    let s : State := { State.reset with answers := oks 11, owned := [1] }
    (bindingFault pins8 = none ∧ (∀ id ∈ bindingIds pins8, id ∉ s.takenIds) ∧ s.grants (bindingLines pins8).length) ∧
    (bindingFault pins4 = none ∧ (∀ id ∈ bindingIds pins4, id ∉ s.takenIds) ∧ s.grants (bindingLines pins4).length) := by
  decide +kernel

theorem witness_ConstructChecksTheBindingInOrder :
    let noRs := { pins4 with rs := none }
    let noE := { pins4 with e := none }
    let noDb4 : Binding := { pins4 with db := ⟨none, none, none, none, none, some 17, some 18, some 22⟩ }
    let noDb7 : Binding := { pins8 with db := ⟨some 5, some 6, some 12, some 13, some 23, some 17, some 18, none⟩ }
    let db0 : Binding := { pins4 with db := ⟨some 5, none, none, none, some 23, some 17, some 18, some 22⟩ }
    let noDb3 : Binding := { pins8 with db := ⟨some 5, some 6, some 12, none, some 23, some 17, some 18, some 22⟩ }
    let twice4 := { pins4 with e := some 25 }
    let twice8 := { pins8 with rw := some 22 }
    (noRs.rs = none) ∧ (noE.rs ≠ none ∧ noE.e = none) ∧
    (noDb4.rs ≠ none ∧ noDb4.e ≠ none ∧ ∃ k : Fin 8, 4 ≤ k.val ∧ noDb4.db.get k = none) ∧
    (noDb7.rs ≠ none ∧ noDb7.e ≠ none ∧ ∃ k : Fin 8, 4 ≤ k.val ∧ noDb7.db.get k = none) ∧
    ((∀ k : Fin 8, 4 ≤ k.val → db0.db.get k ≠ none) ∧ (∃ k : Fin 8, k.val < 4 ∧ db0.db.get k = none) ∧
      ∃ k : Fin 8, k.val < 4 ∧ db0.db.get k ≠ none) ∧
    ((∀ k : Fin 8, 4 ≤ k.val → noDb3.db.get k ≠ none) ∧ (∃ k : Fin 8, k.val < 4 ∧ noDb3.db.get k = none) ∧
      ∃ k : Fin 8, k.val < 4 ∧ noDb3.db.get k ≠ none) ∧
    ((∀ k : Fin 8, k.val < 4 → twice4.db.get k = none) ∧ ¬ (bindingIds twice4).Nodup) ∧
    ((∀ k : Fin 8, k.val < 4 → twice8.db.get k ≠ none) ∧ ¬ (bindingIds twice8).Nodup) ∧
    ((∀ k : Fin 8, 4 ≤ k.val → pins4.db.get k ≠ none) ∧ (∀ k : Fin 8, k.val < 4 → pins4.db.get k = none) ∧
      (bindingIds pins4).Nodup) ∧
    ((∀ k : Fin 8, k.val < 4 → pins8.db.get k ≠ none) ∧ (bindingIds pins8).Nodup) := by decide +kernel

theorem witness_ConstructFailureReleasesInReverse :
    let s : State := { State.reset with answers := okThenFail 2 }
    let o : State := { State.reset with answers := oks 9, owned := [25] }
    (bindingFault pins4 = none ∧
      bindingLines pins4 = [(.rs, 25), (.e, 24)] ++ (.db 4, 23) :: [(.db 5, 17), (.db 6, 18), (.db 7, 22)] ∧
      (∀ p ∈ [((.rs : Line), 25), (.e, 24)], p.2 ∉ s.takenIds) ∧ s.grants 2 ∧ s.answerAt 2 ≠ .ok) ∧
    bindingLines pins4 = [] ++ (.rs, 25) :: (bindingLines pins4).tail ∧ o.grants 0 ∧ 25 ∈ o.takenIds := by
  decide +kernel

theorem witness_OverlappingBindingNeverSucceeds :
    let other : Binding := { rs := some 1, rw := none, e := some 2, db := ⟨none, none, none, none, some 3, some 4, some 5, some 6⟩ }
    (∃ id ∈ bindingIds pins4, id ∈ ({ State.reset with owned := [22] } : State).owned) ∧
    ((ready pins4 []).alive = true ∧ ∃ id ∈ bindingIds pins4, id ∈ bindingIds (ready pins4 []).pins) ∧
    (after (.construct other) (ready pins4 (oks 6))).returns = [.ok] ∧ 25 ∈ bindingIds (ready pins4 (oks 6)).pins := by
  decide +kernel

theorem witness_OverlappingBindingNeverSucceeds_next (d : Binding) :
    exec (.construct d) (ready pins4 (oks 6)) = .next (after (.construct d) (ready pins4 (oks 6))) := by
  simp only [after, exec, execConstruct]
  cases bindingFault d <;> rfl

theorem witness_DropReleasesEveryLine : (ready pins4 []).alive = true ∧ State.reset.alive = false := by decide

theorem witness_CommandSendsByteWithRsLow : Met pins4 (sendOps .w4 false 0xA5#8 .low) := met_send_alone _ _ _ _ _

/-- The last write of `write(0x48)` that can be refused: the final E Low of a W8 transfer. -/
theorem witness_WriteSendsByteWithRsHigh : Met pins8 (sendOps .w8 true 0x48#8 .high) :=
  met pins8 (done := (sendOps .w8 true 0x48#8 .high).take 14) (l := .e) (v := .low) (rest := [.sleep 100]) (by decide)

theorem witness_BusWordsAreSentAsTheyStand :
    encode (.functionSet .w8 .two .m5x8 0#2) = some (.word 0x38#9) ∧ Met pins4 (sendOps .w4 false 0x38#8 .low) ∧
    encode (.writeData 0#8) = some (.word 0x100#9) ∧ Met pins8 (sendOps .w8 true 0x00#8 .high) :=
  ⟨by decide, met_send_alone _ _ _ _ _, by decide, met_send_alone _ _ _ _ _⟩

theorem witness_NibblesTransferOnFourBitBus :
    let f : State := { fresh pins4 [] with phase := .faulted }
    let g := forced pins4 (oks 7)
    let r := forced pins4 (okThenFail 6)
    State.reset.alive = false ∧ (f.alive = true ∧ f.phase = .faulted) ∧
    (g.alive = true ∧ g.busWidth = .w4 ∧ g.phase = .forcedIdle ∧ g.levels.get .rs = .low ∧
      g.grants (countWrites (nibOps 2#4))) ∧
    (r.alive = true ∧ r.busWidth = .w4 ∧ r.phase = .forcedIdle ∧ r.levels.get .rs = .low ∧
      nibOps 2#4 = (nibOps 2#4).take 8 ++ .write .e .low :: [.sleep 100] ∧
      r.refusesAt (countWrites ((nibOps 2#4).take 8)) .high) ∧
    (match initStep1 (initStep0 16 2 .m5x8 (fresh pins4 (oks 2))) with
      | .go _ => true
      | .raised _ _ => false) = true := by decide +kernel

theorem witness_NibblesStopOutsideNegotiation :
    let h : State := { forced pins4 [] with levels := (fresh pins4 []).levels.set .rs .high }
    ((fresh pins8 []).alive = true ∧ (fresh pins8 []).phase ≠ .faulted ∧ (fresh pins8 []).busWidth = .w8) ∧
    ((fresh pins4 []).alive = true ∧ (fresh pins4 []).busWidth = .w4 ∧ (fresh pins4 []).phase ≠ .faulted ∧
      (fresh pins4 []).phase ≠ .forcedIdle) ∧
    (h.alive = true ∧ h.busWidth = .w4 ∧ h.phase ≠ .faulted ∧ h.levels.get .rs = .high) ∧
    ((fresh pins4 []).phase = .poweredUnknown ∧ (after .clear (fresh pins4 [])).returns =
      [.err (.notReady .clear .poweredUnknown)]) := by decide +kernel

theorem witness_BeginLeavesTheEngineReady :
    ((fresh pins4 (oks 100)).alive = true ∧ (fresh pins4 (oks 100)).busWidth = .w4 ∧
      (fresh pins4 (oks 100)).hasRw = false ∧
      (fresh pins4 (oks 100)).grants (countWrites (beginOps (initStep0 16 2 .m5x8 (fresh pins4 (oks 100)))))) ∧
    ((fresh pins8 (oks 100)).alive = true ∧ (fresh pins8 (oks 100)).busWidth = .w8 ∧
      (fresh pins8 (oks 100)).hasRw = true ∧
      (fresh pins8 (oks 100)).grants (countWrites (beginOps (initStep0 0 1 .m5x10 (fresh pins8 (oks 100)))))) := by
  decide +kernel

theorem witness_BeginEventsAreThoseOfItsSteps :
    (fresh pins4 []).busWidth = .w4 ∧ (fresh pins8 []).busWidth = .w8 := by decide

/-- A refused write in each of the three lists: the first RS write, the RS write of 0x0C, the RS write of 0x06. -/
theorem witness_BeginFailureKeepsEarlierWrites :
    let s := fresh pins4 (okThenFail 0)
    let s0 := initStep0 16 2 .m5x8 s
    let n1 := countWrites (beginOpsFunction s0)
    let n2 := n1 + countWrites (beginOpsDisplay s0)
    s.alive = true ∧
    (beginOpsFunction s0 = [.sleep 50000] ++ .write .rs .low :: (beginOpsFunction s0).drop 2 ∧
      s.refusesAt (countWrites [.sleep 50000]) .high) ∧
    (beginOpsDisplay s0 = [] ++ .write .rs .low :: (beginOpsDisplay s0).tail ∧
      (fresh pins4 (okThenFail n1)).refusesAt (countWrites (beginOpsFunction s0 ++ [])) .high) ∧
    (beginOpsEntry s0 = [] ++ .write .rs .low :: (beginOpsEntry s0).tail ∧
      (fresh pins4 (okThenFail n2)).refusesAt (countWrites (beginOpsFunction s0 ++ beginOpsDisplay s0 ++ [])) .high) := by
  decide +kernel

theorem witness_BeginTotals :
    ((fresh pins4 (oks 100)).alive = true ∧
      (fresh pins4 (oks 100)).grants (countWrites (beginOps (initStep0 16 2 .m5x8 (fresh pins4 (oks 100)))))) ∧
    exec (.beginInit 16 2 .m5x8) (fresh pins4 (oks 100)) =
      .next (after (.beginInit 16 2 .m5x8) (fresh pins4 (oks 100))) :=
  ⟨by decide +kernel, exec_after (by decide +kernel)⟩

theorem witness_SequencerPassesItsPhasesInOrder :
    (fresh pins4 []).alive = true ∧
    (fresh pins4 (oks 2)).grants (countWrites (forcedIdleOps (fresh pins4 (oks 2)).hasRw)) ∧
    (forcedIdleOps false = [.sleep 50000, .write .rs .low] ++ .write .e .low :: [] ∧
      (fresh pins4 (okThenFail 1)).refusesAt (countWrites [.sleep 50000, .write .rs .low]) .high) ∧
    (fresh pins8 (oks 50)).grants (countWrites (fresh pins8 (oks 50)).negotiateOps) ∧
    (fresh pins8 (oks 13)).grants (countWrites ((fresh pins8 (oks 13)).sendOps 0x06#8 .low)) := by decide +kernel

theorem witness_BeginForgetsThePast :
    let s := fresh pins4 (oks 100)
    let s' := { ready pins4 (oks 100) with phase := .faulted, cursorOn := true, entryLtr := false }
    s.alive = true ∧ s'.alive = true ∧ s.busWidth = s'.busWidth ∧ s.hasRw = s'.hasRw ∧ s.answers = s'.answers ∧
    s.draws = s'.draws := by decide

theorem witness_SetCursorAddressesTheClampedRow :
    (ready pins4 []).lineCount = some .two ∧ (ready pins4 []).rowOffsets = some ⟨0x00, 0x40, 0x10, 0x50⟩ ∧
    Met pins4 (sendOps .w4 false 0xC0#8 .low) := ⟨rfl, rfl, met_send_alone _ _ _ _ _⟩

theorem ready_configured (d : Binding) (a : List Answer) : (ready d a).configured := by
  refine ⟨fun _ => ⟨rfl, rfl, rfl⟩, ?_⟩
  intro t h
  cases h
  rfl

/-- Two lines with rows 0 and 1, and one line. -/
theorem witness_SetCursorReachesTwoRows :
    (∀ a, (ready pins4 a).configured) ∧ (ready pins4 []).phase = .ready ∧ (ready pins4 []).lineCount = some .two ∧
    ({ ready pins4 [] with lineCount := some .one } : State).configured ∧
    Met pins4 (sendOps .w4 false 0x80#8 .low) ∧ Met pins4 (sendOps .w4 false 0xC0#8 .low) :=
  ⟨ready_configured _, rfl, rfl, ⟨fun _ => ⟨rfl, rfl, rfl⟩, (ready_configured pins4 []).2⟩, met_send_alone _ _ _ _ _,
    met_send_alone _ _ _ _ _⟩

theorem witness_PrintSendsEachByteAsData : Met pins4 ([0x48#8, 0x69#8].flatMap fun b => sendOps .w4 false b .high) :=
  met_send _ _ _ _ _ _

theorem witness_ClearAndHomeSettle :
    Met pins4 (sendOps .w4 false 0x01#8 .low ++ [.sleep 2000]) ∧
    Met pins8 (sendOps .w8 true 0x02#8 .low ++ [.sleep 2000]) := ⟨met_send _ _ _ _ _ _, met_send _ _ _ _ _ _⟩

theorem witness_DisplaySettersResendDisplayControl :
    (∃ m : State, Instr.noDisplay = .noDisplay ∧ m = { ready pins4 [] with displayOn := false }) ∧
    (∃ m : State, Instr.noBlink = .noBlink ∧ m = { ready pins4 [] with blinkOn := false }) ∧
    Met pins4 (sendOps .w4 false 0x08#8 .low) ∧ Met pins8 (sendOps .w8 true 0x0F#8 .low) :=
  ⟨⟨_, rfl, rfl⟩, ⟨_, rfl, rfl⟩, met_send_alone _ _ _ _ _, met_send_alone _ _ _ _ _⟩

theorem witness_EntrySettersResendEntryMode :
    (∃ m : State, Instr.rightToLeft = .rightToLeft ∧ m = { ready pins4 [] with entryLtr := false }) ∧
    Met pins4 (sendOps .w4 false 0x04#8 .low) ∧ Met pins8 (sendOps .w8 true 0x07#8 .low) :=
  ⟨⟨_, rfl, rfl⟩, met_send_alone _ _ _ _ _, met_send_alone _ _ _ _ _⟩

theorem witness_ScrollsSendTheDisplayShift :
    Met pins4 (sendOps .w4 false 0x18#8 .low) ∧ Met pins8 (sendOps .w8 true 0x1C#8 .low) :=
  ⟨met_send_alone _ _ _ _ _, met_send_alone _ _ _ _ _⟩

theorem witness_CreateCharSendsSlotAndBitmap :
    Met pins4 (sendOps .w4 false 0x78#8 .low ++ sendOps .w4 false 0xFF#8 .high) := met_send _ _ _ _ _ _

theorem witness_MalformedCreateCharIsRefused :
    ([0, 0, 0, 0, 0, 0, 0] : List Byte).length ≠ 8 ∧ ([0, 0, 0, 0, 0, 0, 0, 0, 0] : List Byte).length ≠ 8 := by decide

theorem witness_CreateCharSlotsWrap :
    ([0, 0, 0, 0, 0, 0, 0, 0] : List Byte).length = 8 ∧ (ready pins4 []).alive = true ∧
    (ready pins4 []).phase = .ready := by decide

theorem witness_SettersAreIdempotent :
    let s := ready pins4 (oks 32)
    let t := after .cursor s
    Instr.cursor ∈ [Instr.display, .noDisplay, .cursor, .noCursor, .blink, .noBlink, .leftToRight, .rightToLeft,
      .autoscroll, .noAutoscroll] ∧ exec .cursor s = .next t ∧ t.returns = s.returns ++ [.ok] ∧
    exec .cursor t = .next (after .cursor t) ∧ (after .cursor t).returns = t.returns ++ [.ok] :=
  ⟨by decide, exec_after (by decide +kernel), by decide +kernel, exec_after (by decide +kernel), by decide +kernel⟩

theorem witness_AdmittedRequestDeliversItsWords :
    let s := ready pins4 (oks 144)
    let u := ready pins8 (oks 13)
    let i : Instr := .createChar 255 [0, 1, 2, 3, 4, 5, 6, 7]
    (needsReady i = true ∧ i.wellFormed = true ∧ s.alive = true ∧ s.phase = .ready ∧
      s.grants (countWrites (requestOps i (flagWrite i s)))) ∧
    (needsReady (.setCursor 0 9) = true ∧ u.lineCount.isSome = true ∧ u.rowOffsets.isSome = true ∧
      u.grants (countWrites (requestOps (.setCursor 0 9) (flagWrite (.setCursor 0 9) u)))) := by decide +kernel

theorem witness_DroppedChangesNothing :
    encode .drop = none ∧ (∀ d, Instr.drop ≠ .construct d) ∧ Instr.drop.wellFormed = true ∧
    State.reset.alive = false := ⟨rfl, nofun, rfl, rfl⟩

theorem witness_NotReadyChangesNothing :
    encode .clear = none ∧ (∀ d, Instr.clear ≠ .construct d) ∧ (∀ c n m, Instr.clear ≠ .beginInit c n m) ∧
    Instr.clear ≠ .drop ∧ Instr.clear.wellFormed = true ∧ State.reset.alive = false ∧
    (fresh pins4 []).alive = true ∧ (fresh pins4 []).phase ≠ .ready :=
  ⟨rfl, nofun, nofun, by decide, rfl, rfl, rfl, by decide⟩

/-- A `begin` that is refused its first write of step 4a (event 67) and of step 5 (event 110): the two bounds in
LineWriteErrorIsPrecise. -/
theorem witness_LineWriteErrorIsPrecise_begin :
    let s0 := initStep0 16 2 .m5x8 (fresh pins4 [])
    let n1 := countWrites (beginOpsFunction s0)
    let n2 := n1 + countWrites (beginOpsDisplay s0)
    (beginOpsFunction s0).length = 67 ∧ (beginOpsFunction s0 ++ beginOpsDisplay s0).length = 110 ∧
    (after (.beginInit 16 2 .m5x8) (fresh pins4 (okThenFail n1))).returns = [.err (.lineWrite .rs .low 67)] ∧
    (after (.beginInit 16 2 .m5x8) (fresh pins4 (okThenFail n2))).returns = [.err (.lineWrite .rs .low 110)] := by
  decide +kernel

theorem witness_LineWriteErrorIsPrecise :
    let s := ready pins8 (okThenFail 4)
    let u := fresh pins4 (okThenFail 0)
    (exec (.print [0x4F#8]) s = .next (after (.print [0x4F#8]) s) ∧
      (after (.print [0x4F#8]) s).returns = s.returns ++ [.err (.lineWrite (.db 2) .high 4)]) ∧
    (exec (.beginInit 16 2 .m5x8) u = .next (after (.beginInit 16 2 .m5x8) u) ∧
      (after (.beginInit 16 2 .m5x8) u).returns = u.returns ++ [.err (.lineWrite .rs .low 1)]) :=
  ⟨⟨exec_after (by decide +kernel), by decide +kernel⟩, exec_after (by decide +kernel), by decide +kernel⟩

/-- For the statements whose only hypothesis is that `exec` answers a next state. -/
theorem witness_exec_next :
    exec .clear (ready pins4 (oks 16)) = .next (after .clear (ready pins4 (oks 16))) ∧
    exec .drop (ready pins4 []) = .next (after .drop (ready pins4 [])) ∧
    exec (.write 0#8) (ready pins4 (okThenFail 3)) = .next (after (.write 0#8) (ready pins4 (okThenFail 3))) :=
  ⟨exec_after (by decide +kernel), exec_after (by decide +kernel), exec_after (by decide +kernel)⟩

theorem witness_OneReturnPerRequest : ∃ t, exec .clear (ready pins4 (oks 16)) = .next t := exec_some (by decide +kernel)

theorem witness_AccessTableHolds :
    (∃ t, exec .blink (ready pins4 (oks 16)) = .next t) ∧ (∃ t, exec .drop (ready pins4 []) = .next t) ∧
    (∃ t, exec (.write 0#8) (ready pins4 (okThenFail 3)) = .next t) ∧
    (after (.construct pins4) { State.reset with answers := oks 6 }).returns = [.ok] ∧
    (after (.construct pins4) { State.reset with answers := okThenFail 5 }).returns ≠ [.ok] :=
  ⟨exec_some (by decide +kernel), exec_some (by decide +kernel), exec_some (by decide +kernel), by decide +kernel, by decide +kernel⟩

theorem witness_FunctionFieldsFixedByBegin :
    (∃ t, exec .clear (ready pins4 (oks 16)) = .next t) ∧ (fresh pins4 (oks 100)).alive = true ∧
    ∃ t, exec (.beginInit 20 4 .m5x10) (fresh pins4 (oks 100)) = .next t :=
  ⟨exec_some (by decide +kernel), rfl, exec_some (by decide +kernel)⟩

theorem witness_ShadowFollowsTheTrace :
    let t := after (.write 0xFF#8) (ready pins4 (oks 16))
    exec (.write 0xFF#8) (ready pins4 (oks 16)) = .next t ∧ lastWrite .rw t.trace = none ∧
    lastWrite (.db 7) t.trace = some (.w (.db 7) .high) :=
  ⟨exec_after (by decide +kernel), by decide +kernel, by decide +kernel⟩

theorem witness_OnlyBeginLeadsToReady :
    let s := { ready pins4 (oks 100) with phase := .faulted }
    (s.alive = true ∧ s.phase = .faulted ∧ Instr.clear.wellFormed = true ∧ Instr.initNibble0011.wellFormed = true ∧
      Instr.initNibble0011 ≠ .drop) ∧
    s.grants (countWrites (beginOps (initStep0 16 2 .m5x8 s))) ∧
    (s.phase ≠ .ready ∧ (after (.beginInit 16 2 .m5x8) s).phase = .ready) := by decide +kernel

theorem witness_WideMatrixNeedsOneLine :
    let s : State := { fresh pins4 (oks 100) with matrix := some .m5x10, lineCount := some .one, port := [.call .clear] }
    s.matrixOk ∧ step s = .next (stepped s) ∧ (∃ t, exec (.beginInit 16 2 .m5x10) s = .next t) ∧
    ∃ t, exec .clear s = .next t := 
  ⟨fun _ => rfl, step_stepped (by decide +kernel), exec_some (by decide +kernel), exec_some (by decide +kernel)⟩

theorem witness_LinesAreIdleBetweenRequests :
    let s : State := { ready pins8 (oks 13) with port := [.call (.write 0#8)] }
    (s.idleLevels ∧ step s = .next (stepped s)) ∧
    ((after (.write 0#8) s).returns = s.returns ++ [.ok] ∧
      (busWords (.write 0#8) (flagWrite (.write 0#8) s)).getLast? = some (.high, 0#8)) ∧
    ((after (.print []) s).returns = s.returns ++ [.ok] ∧ busWords (.print []) (flagWrite (.print []) s) = []) ∧
    (after (.beginInit 16 2 .m5x8) (fresh pins4 (oks 100))).returns = [.ok] :=
  ⟨⟨fun _ => ⟨rfl, fun _ => rfl⟩, step_stepped (by decide +kernel)⟩, by decide +kernel, by decide +kernel, by decide +kernel⟩

theorem offered_inv : State.Inv { ready pins4 (oks 16) with port := [.call .clear] } :=
  ⟨nofun, fun _ => ⟨rfl, nofun⟩, ⟨rfl, rfl, fun _ => by decide⟩, ready_configured pins4 (oks 16), nofun,
    Or.inr (Or.inl rfl), rfl⟩

theorem witness_EveryStepKeepsTheInvariant :
    let s : State := { ready pins4 (oks 16) with port := [.call .clear] }
    s.Inv ∧ step s = .next (stepped s) := ⟨offered_inv, step_stepped (by decide +kernel)⟩

theorem witness_InvariantExcludesFaults :
    exec (.setCursor 0 0) { fresh pins4 [] with phase := .ready } = .fault .unsetField ∧
    State.Inv { ready pins4 (oks 16) with port := [.call .clear] } := ⟨rfl, offered_inv⟩

theorem witness_PulseMarginIsAlwaysKept : ∃ t, exec .clear (ready pins4 (oks 16)) = .next t := exec_some (by decide +kernel)

theorem witness_RwIsNeverDrivenHigh : ∃ t, exec .clear (ready pins8 (oks 13)) = .next t := exec_some (by decide +kernel)

theorem witness_NoFunctionSetOutsideBegin :
    let s := ready pins4 (oks 16)
    let u := ready pins4 (okThenFail 20)
    (encode .cursor = none ∧ (∀ c, Instr.cursor ≠ .command c) ∧ ∀ c n m, Instr.cursor ≠ .beginInit c n m) ∧
    (exec .cursor s = .next (after .cursor s) ∧
      (.low, 0x0E#8) ∈ delivered s.busWidth (latches s.levels (after .cursor s).trace)) ∧
    (encode (.print [0x41#8, 0x42#8]) = none ∧
      exec (.print [0x41#8, 0x42#8]) u = .next (after (.print [0x41#8, 0x42#8]) u) ∧
      (after (.print [0x41#8, 0x42#8]) u).phase = .faulted) :=
  ⟨⟨by decide, nofun, nofun⟩, ⟨exec_after (by decide +kernel), by decide +kernel⟩, by decide,
    exec_after (by decide +kernel), by decide +kernel⟩

theorem witness_RequestedTimes :
    (after (.setCursor 0 0) (ready pins4 (oks 16))).returns = [.ok] ∧ (after .home (ready pins8 (oks 13))).returns = [.ok] ∧
    (after (.print [0#8]) (ready pins4 (oks 16))).returns = [.ok] ∧
    (after (.createChar 0 [0, 0, 0, 0, 0, 0, 0, 0]) (ready pins4 (oks 144))).returns = [.ok] ∧
    (after (.beginInit 16 2 .m5x8) (fresh pins8 (oks 100))).returns = [.ok] ∧ (after .drop (ready pins4 [])).returns = [.ok] := by
  decide +kernel

end Sys2Proof.Tests
end

section
/-! PROOFS. What an instruction does to each part of the state of 10_state.md: the binding and the life of the engine
(`exec_wiring`), the configuration and the phase (`exec_config`), the flags (`exec_flags`) and the shadow
(`exec_shadow`). The access table, the invariant between requests and the absence of faults follow from these. -/

namespace Sys2Proof.Machine

/-! ### A step serves the oldest offer -/

theorem step_of_asked {s : State} {o : Offer} {rest : List Offer} {i : Instr} (hp : s.port = o :: rest)
    (ho : o.asked = .ok i) : step s = exec i { s with port := rest } := by
  simp [step, hp, ho]

theorem step_of_refused {s : State} {o : Offer} {rest : List Offer} {r : Refusal} (hp : s.port = o :: rest)
    (ho : o.asked = .error r) : step s = .refused r := by
  simp [step, hp, ho]

/-- What every instruction keeps, and taking an offer from the port keeps, every step keeps. -/
theorem step_keeps {P : State → Prop} (hport : ∀ (s : State) (rest : List Offer), P s → P { s with port := rest })
    (hexec : ∀ (i : Instr) (s t : State), P s → exec i s = .next t → P t) {s t : State} (hs : P s)
    (h : step s = .next t) : P t := by
  rcases step_cases h with ⟨-, rfl⟩ | ⟨o, rest, i, -, -, he⟩
  · exact hs
  · exact hexec i _ t (hport s rest hs) he

/-- Settles O10: each clause is what the offer asks for. -/
theorem stepRunsTheOldestOffer : Obligations.StepRunsTheOldestOffer := by
  intro s rest
  refine ⟨fun i hp he => ?_, fun i w hp he => ?_, fun bytes i hp hd => ?_, fun bytes why hp hd => ?_⟩
  · exact step_of_asked hp (by simp [Offer.asked, isCall, he])
  · exact step_of_refused hp (by simp [Offer.asked, isCall, he])
  · exact step_of_asked hp (by simp [Offer.asked, hd])
  · exact step_of_refused hp (by simp [Offer.asked, hd])

/-! ### The binding and the life of the engine (R22 to R24, R31) -/

/-- `t` is a state that a successful `construct(d)` answers (R340, R344). -/
def Installed (d : Binding) (t : State) : Prop :=
  bindingFault d = none ∧ ∃ u : State, u.pos = 0 ∧ t = (u.install d).respond .ok

/-- `t` has the binding of `s` and the lines of other instances, and instruction `i` ends no life but by `drop`. -/
structure SameWiring (i : Instr) (s t : State) : Prop where
  pins : t.pins = s.pins
  busWidth : t.busWidth = s.busWidth
  hasRw : t.hasRw = s.hasRw
  owned : t.owned = s.owned
  alive : t.alive = s.alive ∨ i = .drop ∧ t.alive = false

theorem SameLines.sameWiring {s u : State} (h : SameLines s u) (i : Instr) : SameWiring i s u :=
  ⟨h.pins, h.busWidth, h.hasRw, h.owned, .inl h.alive⟩

theorem SameWiring.completed {i : Instr} {s u : State} {ops : List BusOp} (h : SameWiring i s u) :
    SameWiring i s (u.completed ops) := by
  obtain ⟨hpins, hwidth, hrw, howned, halive⟩ := h
  constructor <;> simpa

theorem SameWiring.failedAt {i : Instr} {s u : State} {done : List BusOp} {l : Line} {v left : Level}
    (h : SameWiring i s u) : SameWiring i s (u.failedAt done l v left) := by
  obtain ⟨hpins, hwidth, hrw, howned, halive⟩ := h
  constructor <;> simpa

theorem exec_wiring {i : Instr} {s t : State} (h : exec i s = .next t) :
    SameWiring i s t ∨ ∃ d, i = .construct d ∧ Installed d t := by
  rcases exec_cases h with ⟨e, -, rfl⟩ | ⟨-, u, ops, hb, rfl⟩ | ⟨-, u, done, l, v, left, hc, rfl⟩ | ⟨rfl, -, rfl⟩ |
    ⟨d, rfl, hd, rfl⟩ | ⟨d, pre, l, id, post, rfl, -, rfl⟩
  · exact .inl ⟨rfl, rfl, rfl, rfl, .inl rfl⟩
  · exact .inl (hb.same.sameWiring i).completed
  · exact .inl (hc.same.sameWiring i).failedAt
  · exact .inl ⟨rfl, rfl, rfl, rfl, .inr ⟨rfl, rfl⟩⟩
  · exact .inr ⟨d, rfl, hd, _, rfl, rfl⟩
  · exact .inl ⟨rfl, rfl, rfl, rfl, .inl rfl⟩

theorem exec_wiring_of_not_construct {i : Instr} {s t : State} (hi : ∀ d, i ≠ .construct d)
    (h : exec i s = .next t) : SameWiring i s t :=
  (exec_wiring h).resolve_right fun ⟨d, hd, _⟩ => hi d hd

theorem drop_not_alive {s t : State} (h : exec .drop s = .next t) : t.alive = false := by
  rcases drop_cases s with ⟨ha, he⟩ | ⟨-, he⟩
  · cases h.symm.trans he
    exact ha
  · cases h.symm.trans he
    rfl

/-! ### The configuration and the phase (R25, R26, R30, R32) -/

/-- `t` has the configuration that `begin(columns, lines, m)` writes (R201). -/
structure ConfiguredBy (columns lines : Nat) (m : Matrix) (t : State) : Prop where
  lineCount : t.lineCount = some (linesOfRequest lines)
  matrix : t.matrix = some (matrixOfRequest m (linesOfRequest lines))
  rowOffsets : t.rowOffsets = some (RowOffsets.ofColumns columns)

/-- `t` has the configuration of `s`, and its phase unless a line write was refused. -/
structure KeepsConfig (s t : State) : Prop where
  lineCount : t.lineCount = s.lineCount
  matrix : t.matrix = s.matrix
  rowOffsets : t.rowOffsets = s.rowOffsets
  phase : t.phase = s.phase ∨ t.phase = .faulted ∧ ∃ l v k, t.returns = s.returns ++ [.err (.lineWrite l v k)]

theorem ConfiguredBy.completed {columns lines : Nat} {m : Matrix} {u : State} {ops : List BusOp}
    (h : ConfiguredBy columns lines m u) : ConfiguredBy columns lines m (u.completed ops) := by
  obtain ⟨hlines, hmatrix, hoffsets⟩ := h
  constructor <;> simpa

theorem ConfiguredBy.failedAt {columns lines : Nat} {m : Matrix} {u : State} {done : List BusOp} {l : Line}
    {v left : Level} (h : ConfiguredBy columns lines m u) : ConfiguredBy columns lines m (u.failedAt done l v left) := by
  obtain ⟨hlines, hmatrix, hoffsets⟩ := h
  constructor <;> simpa

theorem BeginSegment.configuredBy {columns lines : Nat} {m : Matrix} {s u : State} {before seg : List BusOp}
    (h : BeginSegment (initStep0 columns lines m s) u before seg) : ConfiguredBy columns lines m u := by
  cases h <;> exact ⟨rfl, rfl, rfl⟩

/-- An instruction that completes is `begin`, or has written what `flagWrite` says in a phase that sends. -/
theorem Body.begin_or_flagWrite {s u : State} {i : Instr} {ops : List BusOp} (h : Body s i u ops) :
    (∃ columns lines m, i = .beginInit columns lines m ∧ ConfiguredBy columns lines m u ∧ u.phase = .ready) ∨
    u = flagWrite i s ∧ (s.phase = .ready ∨ s.phase = .forcedIdle) := by
  cases h with
  | request _ _ _ _ hp => exact .inr ⟨rfl, .inl hp⟩
  | nibble0011 _ hn | nibble0010 _ hn => exact .inr ⟨rfl, .inr (of_decide_eq_true hn).1⟩
  | begin columns lines m s0 h0 =>
    subst h0
    exact .inl ⟨columns, lines, m, rfl, ⟨rfl, rfl, rfl⟩, rfl⟩

/-- An instruction that is cut short is `begin`, or has written what `flagWrite` says. -/
theorem Cut.begin_or_flagWrite {s u : State} {i : Instr} {done : List BusOp} {l : Line} {v : Level}
    (h : Cut s i u done l v) :
    (∃ columns lines m, i = .beginInit columns lines m ∧ ConfiguredBy columns lines m u) ∨ u = flagWrite i s := by
  cases h with
  | request | nibble0011 | nibble0010 => exact .inr rfl
  | begin columns lines m _ _ _ _ _ _ _ _ h0 hs =>
    subst h0
    exact .inl ⟨columns, lines, m, rfl, hs.configuredBy⟩

/-- Everything an instruction can do to the configuration and the phase. -/
theorem exec_config {i : Instr} {s t : State} (h : exec i s = .next t) :
    KeepsConfig s t ∨
    (∃ columns lines m, i = .beginInit columns lines m ∧ ConfiguredBy columns lines m t ∧
      (t.phase = .ready ∨ t.phase = .faulted)) ∨
    ∃ d, i = .construct d ∧ Installed d t := by
  rcases exec_cases h with ⟨e, -, rfl⟩ | ⟨-, u, ops, hb, rfl⟩ | ⟨-, u, done, l, v, left, hc, rfl⟩ | ⟨rfl, -, rfl⟩ |
    ⟨d, rfl, hd, rfl⟩ | ⟨d, pre, l, id, post, rfl, -, rfl⟩
  · exact .inl ⟨rfl, rfl, rfl, .inl rfl⟩
  · rcases hb.begin_or_flagWrite with ⟨columns, lines, m, rfl, hu, hp⟩ | ⟨rfl, -⟩
    · exact .inr (.inl ⟨columns, lines, m, rfl, hu.completed, .inl hp⟩)
    · exact .inl (by constructor <;> simp)
  · rcases hc.begin_or_flagWrite with ⟨columns, lines, m, rfl, hu⟩ | rfl
    · exact .inr (.inl ⟨columns, lines, m, rfl, hu.failedAt, .inr rfl⟩)
    · exact .inl (by constructor <;> simp)
  · exact .inl ⟨rfl, rfl, rfl, .inl rfl⟩
  · exact .inr (.inr ⟨d, rfl, hd, _, rfl, rfl⟩)
  · exact .inl ⟨rfl, rfl, rfl, .inl rfl⟩

theorem exec_keepsConfig {i : Instr} {s t : State} (hc : ∀ d, i ≠ .construct d) (hb : ∀ c n m, i ≠ .beginInit c n m)
    (h : exec i s = .next t) : KeepsConfig s t := by
  rcases exec_config h with hk | ⟨c, n, m, hi, -⟩ | ⟨d, hi, -⟩
  · exact hk
  · exact absurd hi (hb c n m)
  · exact absurd hi (hc d)

/-- An admitted `begin` writes the configuration, however it ends (R201, R211). -/
theorem begin_configures {columns lines : Nat} {m : Matrix} {s t : State} (ha : s.alive = true)
    (h : exec (.beginInit columns lines m) s = .next t) : ConfiguredBy columns lines m t := by
  rcases begin_cases columns lines m s _ rfl with ⟨h0, -⟩ | ⟨-, -, he⟩ | ⟨-, u, _, _, _, _, _, _, _, hs, -, -, he⟩
  · simp [ha] at h0
  · cases h.symm.trans he
    exact ⟨rfl, rfl, rfl⟩
  · cases h.symm.trans he
    exact hs.configuredBy.failedAt

/-- Settles O49: the bus width is wiring, the rest is the configuration, which `begin` writes from its arguments. -/
theorem functionFieldsFixedByBegin : Obligations.FunctionFieldsFixedByBegin := by
  refine ⟨fun i s t hc h => ⟨(exec_wiring_of_not_construct hc h).busWidth, fun hb => ?_⟩,
    fun columns lines m s t ha h => ?_⟩
  · have hk := exec_keepsConfig hc hb h
    exact ⟨hk.lineCount, hk.matrix, hk.rowOffsets⟩
  · have hcfg := begin_configures ha h
    refine ⟨hcfg.lineCount, hcfg.matrix.trans ?_, hcfg.rowOffsets⟩
    by_cases hl : lines > 1 <;> simp [matrixOfRequest, linesOfRequest, hl]

/-! ### R27 -/

theorem ConfiguredBy.matrixOk {columns lines : Nat} {m : Matrix} {t : State} (h : ConfiguredBy columns lines m t) :
    t.matrixOk := by
  intro hm
  rw [h.matrix, matrixOfRequest] at hm
  rw [h.lineCount]
  split at hm
  · next hw => rw [hw.2]
  · cases hm

theorem exec_matrixOk (i : Instr) (s t : State) (hs : s.matrixOk) (h : exec i s = .next t) : t.matrixOk := by
  rcases exec_config h with hk | ⟨_, _, _, -, hcfg, -⟩ | ⟨d, -, -, u, -, rfl⟩
  · rw [State.matrixOk, hk.matrix, hk.lineCount]
    exact hs
  · exact hcfg.matrixOk
  · exact nofun

/-- Settles O52: `begin` computes the matrix from the line count, and the other instructions keep both or unset both. -/
theorem wideMatrixNeedsOneLine : Obligations.WideMatrixNeedsOneLine := by
  refine ⟨fun s t => step_keeps (fun _ _ hs => hs) exec_matrixOk,
    fun columns lines m s t ha h => (begin_configures ha h).matrixOk, fun i s t hc hb h => ?_⟩
  have hk := exec_keepsConfig hc hb h
  exact ⟨hk.matrix, hk.lineCount⟩

/-! ### The flags (R28, R29) -/

/-- `t` has the flags of `s`. -/
structure SameFlags (s t : State) : Prop where
  displayOn : t.displayOn = s.displayOn
  cursorOn : t.cursorOn = s.cursorOn
  blinkOn : t.blinkOn = s.blinkOn
  entryLtr : t.entryLtr = s.entryLtr
  entryShift : t.entryShift = s.entryShift

/-- An instruction but `construct` and `begin` writes no flag, or the one that `flagWrite` says. -/
theorem exec_flags {i : Instr} {s t : State} (hi : ∀ d, i ≠ .construct d) (hb : ∀ c n m, i ≠ .beginInit c n m)
    (h : exec i s = .next t) : SameFlags s t ∨ SameFlags (flagWrite i s) t := by
  rcases exec_cases h with ⟨e, -, rfl⟩ | ⟨-, u, ops, hbody, rfl⟩ | ⟨-, u, done, l, v, left, hcut, rfl⟩ | ⟨rfl, -, rfl⟩ |
    ⟨d, hd, -⟩ | ⟨d, _, _, _, _, hd, -⟩
  · exact .inl ⟨rfl, rfl, rfl, rfl, rfl⟩
  · rcases hbody.begin_or_flagWrite with ⟨c, n, m, hi, -⟩ | ⟨rfl, -⟩
    · exact absurd hi (hb c n m)
    · exact .inr (by constructor <;> simp)
  · rcases hcut.begin_or_flagWrite with ⟨c, n, m, hi, -⟩ | rfl
    · exact absurd hi (hb c n m)
    · exact .inr (by constructor <;> simp)
  · exact .inl ⟨rfl, rfl, rfl, rfl, rfl⟩
  · exact absurd hd (hi d)
  · exact absurd hd (hi d)

theorem flagWrite_displayOn {i : Instr} (s : State) (h1 : i ≠ .display) (h0 : i ≠ .noDisplay) :
    (flagWrite i s).displayOn = s.displayOn := by
  cases i with
  | display => exact absurd rfl h1
  | noDisplay => exact absurd rfl h0
  | _ => rfl

theorem flagWrite_cursorOn {i : Instr} (s : State) (h1 : i ≠ .cursor) (h0 : i ≠ .noCursor) :
    (flagWrite i s).cursorOn = s.cursorOn := by
  cases i with
  | cursor => exact absurd rfl h1
  | noCursor => exact absurd rfl h0
  | _ => rfl

theorem flagWrite_blinkOn {i : Instr} (s : State) (h1 : i ≠ .blink) (h0 : i ≠ .noBlink) :
    (flagWrite i s).blinkOn = s.blinkOn := by
  cases i with
  | blink => exact absurd rfl h1
  | noBlink => exact absurd rfl h0
  | _ => rfl

theorem flagWrite_entryLtr {i : Instr} (s : State) (h1 : i ≠ .leftToRight) (h0 : i ≠ .rightToLeft) :
    (flagWrite i s).entryLtr = s.entryLtr := by
  cases i with
  | leftToRight => exact absurd rfl h1
  | rightToLeft => exact absurd rfl h0
  | _ => rfl

theorem flagWrite_entryShift {i : Instr} (s : State) (h1 : i ≠ .autoscroll) (h0 : i ≠ .noAutoscroll) :
    (flagWrite i s).entryShift = s.entryShift := by
  cases i with
  | autoscroll => exact absurd rfl h1
  | noAutoscroll => exact absurd rfl h0
  | _ => rfl

/-! ### The shadow (R33) -/

theorem lastWrite_wBang_same (l : Line) (v : Level) (t : List Event) :
    lastWrite l (t ++ [.wBang l v]) = some (.wBang l v) := by
  simp [lastWrite]

theorem lastWrite_wBang_other {l l' : Line} (hl : l' ≠ l) (v : Level) (t : List Event) :
    lastWrite l (t ++ [.wBang l' v]) = lastWrite l t := by
  simp [lastWrite, hl]

/-- A line that a trace never writes has no last write in it. -/
theorem lastWrite_eq_none {l : Line} {evs : List Event} (h : ∀ v, .w l v ∉ evs ∧ .wBang l v ∉ evs) :
    lastWrite l evs = none := by
  rw [lastWrite, List.find?_eq_none]
  intro e he
  rw [List.mem_reverse] at he
  cases e with
  | w l' v =>
    rintro hl
    cases eq_of_beq hl
    exact (h v).1 he
  | wBang l' v =>
    rintro hl
    cases eq_of_beq hl
    exact (h v).2 he
  | q | qBang | x | s => simp

theorem lastWrite_map_x (l : Line) (lines : List (Line × LineId)) :
    lastWrite l (lines.map fun p => .x p.1) = none :=
  lastWrite_eq_none fun v => by simp

/-- The level `after` of line `l` is what the events `evs` say of it, `before` being its level before them (R33). -/
def ShadowSays (l : Line) (evs : List Event) (before after : Level) : Prop :=
  (lastWrite l evs = none → after = before) ∧ ∀ v, lastWrite l evs = some (.w l v) → after = v

theorem shadowSays_events (l : Line) (ops : List BusOp) (v : Levels) :
    ShadowSays l (ops.map BusOp.event) (v.get l) ((driven ops v).get l) := by
  rcases lastWrite_events l ops v with ⟨hn, hd⟩ | ⟨a, hs, hd⟩
  · exact ⟨fun _ => hd, fun b hb => by simp [hn] at hb⟩
  · exact ⟨fun hn => by simp [hs] at hn, fun b hb => by simp_all⟩

/-- After a refused write nothing is said of its line, and what was said of the others stands. -/
theorem shadowSays_refused (l : Line) (done : List BusOp) (l' : Line) (a left : Level) (v : Levels) :
    ShadowSays l (done.map BusOp.event ++ [.wBang l' a]) (v.get l) (((driven done v).set l' left).get l) := by
  by_cases hl : l' = l
  · subst hl
    simp [ShadowSays, lastWrite_wBang_same]
  · rw [ShadowSays, lastWrite_wBang_other hl, Levels.get_set_other _ (Ne.symm hl)]
    exact shadowSays_events l done v

theorem exec_shadow {i : Instr} {s t : State} (hi : ∀ d, i ≠ .construct d) (h : exec i s = .next t) :
    ∃ evs, t.trace = s.trace ++ evs ∧ ∀ l, ShadowSays l evs (s.levels.get l) (t.levels.get l) := by
  rcases exec_cases h with ⟨e, -, rfl⟩ | ⟨-, u, ops, hb, rfl⟩ | ⟨-, u, done, l, v, left, hc, rfl⟩ | ⟨rfl, -, rfl⟩ |
    ⟨d, hd, -⟩ | ⟨d, _, _, _, _, hd, -⟩
  · exact ⟨[], by simp, fun l => shadowSays_events l [] s.levels⟩
  · refine ⟨ops.map BusOp.event, by simp [hb.same.trace], fun l => ?_⟩
    rw [State.completed_levels, hb.same.levels]
    exact shadowSays_events l ops s.levels
  · refine ⟨done.map BusOp.event ++ [.wBang l v], by simp [hc.same.trace], fun l' => ?_⟩
    rw [State.failedAt_levels, hc.same.levels]
    exact shadowSays_refused l' done l v left s.levels
  · exact ⟨_, rfl, fun l => by simp [ShadowSays, lastWrite_map_x]⟩
  · exact absurd hd (hi d)
  · exact absurd hd (hi d)

/-- Settles O50: it is `exec_shadow`. -/
theorem shadowFollowsTheTrace : Obligations.ShadowFollowsTheTrace := fun _ _ _ hi h => exec_shadow hi h

/-! ### The access table (R36) -/

/-- A `construct` that does not return Ok leaves the engine in view alone (R341, R342; log 6). -/
theorem construct_agrees_of_not_ok {d : Binding} {s t : State} (h : exec (.construct d) s = .next t)
    (hr : t.returns ≠ s.returns ++ [.ok]) : t.agrees { s with trace := t.trace, returns := t.returns } := by
  rcases construct_cases d s with ⟨c, -, he⟩ | ⟨-, -, -, he⟩ | ⟨-, pre, l, id, post, -, -, he⟩
  · cases h.symm.trans he
    rfl
  · cases h.symm.trans he
    exact absurd rfl hr
  · cases h.symm.trans he
    rfl

/-- A `construct` that returns Ok makes the new engine (R340, R344). -/
theorem construct_installed_of_ok {d : Binding} {s t : State} (h : exec (.construct d) s = .next t)
    (hr : t.returns = s.returns ++ [.ok]) : Installed d t := by
  rcases construct_cases d s with ⟨c, -, he⟩ | ⟨hd, -, -, he⟩ | ⟨-, pre, l, id, post, -, -, he⟩
  · cases h.symm.trans he
    simp at hr
  · cases h.symm.trans he
    exact ⟨hd, _, rfl, rfl⟩
  · cases h.symm.trans he
    simp at hr

/-- Settles O48: the rows of the table are those of the wiring, the configuration, the flags and the shadow. -/
theorem accessTableHolds : Obligations.AccessTableHolds := by
  refine ⟨fun i s t hi h => ?_, fun d s t h => ⟨fun hr => ?_, construct_agrees_of_not_ok h⟩⟩
  · have hw := exec_wiring_of_not_construct hi h
    refine ⟨hw.pins, hw.busWidth, hw.hasRw, hw.owned, fun hd => hw.alive.resolve_right fun ha => hd ha.1, ?_,
      fun hb => ?_, ?_⟩
    · rintro rfl
      exact drop_not_alive h
    · have hk := exec_keepsConfig hi hb h
      refine ⟨hk.lineCount, hk.matrix, hk.rowOffsets, ?_⟩
      rcases exec_flags hi hb h with hf | hf
      · exact ⟨fun _ _ => hf.displayOn, fun _ _ => hf.cursorOn, fun _ _ => hf.blinkOn, fun _ _ => hf.entryLtr,
          fun _ _ => hf.entryShift, hk.phase⟩
      · exact ⟨fun h1 h0 => hf.displayOn.trans (flagWrite_displayOn s h1 h0),
          fun h1 h0 => hf.cursorOn.trans (flagWrite_cursorOn s h1 h0),
          fun h1 h0 => hf.blinkOn.trans (flagWrite_blinkOn s h1 h0),
          fun h1 h0 => hf.entryLtr.trans (flagWrite_entryLtr s h1 h0),
          fun h1 h0 => hf.entryShift.trans (flagWrite_entryShift s h1 h0), hk.phase⟩
    · obtain ⟨evs, ht, hl⟩ := exec_shadow hi h
      exact ⟨evs, ht, fun l hn => (hl l).1 (lastWrite_eq_none hn)⟩
  · obtain ⟨-, u, -, rfl⟩ := construct_installed_of_ok h hr
    exact ⟨rfl, rfl, rfl⟩

/-! ### Idle lines (R34) -/

section Send
variable (w : BusWidth) (hasRw : Bool) (b : Byte) (rs : Level) (v : Levels)

/-- SEND leaves RS at its level, E Low, and RW Low when bound (R160, R163). -/
@[simp] theorem driven_send_rs : (driven (sendOps w hasRw b rs) v).get .rs = rs := by
  cases w <;> cases hasRw <;>
    simp [sendOps, rwLowOps, nibOps, byte8Ops, pulseOps, dataWrite, driven, Levels.get, Levels.set]

@[simp] theorem driven_send_e : (driven (sendOps w hasRw b rs) v).get .e = .low := by
  cases w <;> cases hasRw <;>
    simp [sendOps, rwLowOps, nibOps, byte8Ops, pulseOps, dataWrite, driven, Levels.get, Levels.set]

@[simp] theorem driven_send_rw : (driven (sendOps w true b rs) v).get .rw = .low := by
  cases w <;> simp [sendOps, rwLowOps, nibOps, byte8Ops, pulseOps, dataWrite, driven, Levels.get, Levels.set]

end Send

/-- Whatever the levels were, `begin` ends with a SEND with RS Low (R208). -/
theorem driven_begin (s : State) (v : Levels) :
    driven (beginOps s) v = driven (s.sendOps 0x06#8 .low) (driven (beginOpsFunction s ++ beginOpsDisplay s) v) := by
  rw [beginOps, driven_append]
  rfl

@[simp] theorem driven_settle (i : Instr) (v : Levels) : driven (settleOps i) v = v := by
  cases i <;> rfl

/-- After bus words in order RS is at the level of the last one (R163). -/
theorem driven_sends_rs {ws : List (Level × Byte)} {rs : Level} {b : Byte} (h : ws.getLast? = some (rs, b)) (s : State)
    (v : Levels) : (driven (ws.flatMap fun w => s.sendOps w.2 w.1) v).get .rs = rs := by
  obtain ⟨init, rfl⟩ := List.getLast?_eq_some_iff.mp h
  simp [State.sendOps]

/-- A list of transfers leaves RW Low, when bound, if it was Low (R66). -/
theorem Transfers.rw_low {hasRw : Bool} {ops : List BusOp} (h : Transfers hasRw ops) (v : Levels)
    (hv : v.get .rw = .low) : (driven ops v).get .rw = .low :=
  driven_get_of_all_writes (fun b hb => (h.rw_writes b hb).1) hv

/-- Instructions that complete leave E and RW Low: `begin` from any levels, the others from idle lines. -/
theorem Body.idleLevels {s u : State} {i : Instr} {ops : List BusOp} (h : Body s i u ops) (hs : s.idleLevels) :
    (u.completed ops).idleLevels := by
  intro _
  rw [State.completed_levels, State.completed_hasRw, h.same.levels, h.same.hasRw]
  by_cases hp : s.phase = .faulted
  · cases h with
    | request _ _ _ _ hr => simp [hp] at hr
    | nibble0011 _ hn | nibble0010 _ hn => simp [State.negotiating, hp] at hn
    | begin columns lines m s0 h0 =>
      subst h0
      rw [driven_begin]
      exact ⟨driven_send_e .., fun hr => by simp [State.sendOps, hr]⟩
  · obtain ⟨he, hrw⟩ := hs hp
    exact ⟨h.transfers.e_low _ he, fun hr => h.transfers.rw_low _ (hrw hr)⟩

theorem exec_idleLevels (i : Instr) (s t : State) (hs : s.idleLevels) (h : exec i s = .next t) : t.idleLevels := by
  rcases exec_cases h with ⟨e, -, rfl⟩ | ⟨-, u, ops, hb, rfl⟩ | ⟨-, u, done, l, v, left, -, rfl⟩ | ⟨rfl, -, rfl⟩ |
    ⟨d, rfl, -, rfl⟩ | ⟨d, pre, l, id, post, rfl, -, rfl⟩
  · exact hs
  · exact hb.idleLevels hs
  · exact fun hp => absurd rfl hp
  · exact hs
  · exact fun _ => ⟨Levels.get_allLow .e, fun _ => Levels.get_allLow .rw⟩
  · exact hs

/-- An instruction but `construct` and `drop` that returns Ok has performed all its transfers. -/
theorem body_of_ok {i : Instr} {s t : State} (hc : ∀ d, i ≠ .construct d) (hd : i ≠ .drop) (h : exec i s = .next t)
    (hok : t.returns = s.returns ++ [.ok]) : ∃ u ops, Body s i u ops ∧ t = u.completed ops := by
  rcases exec_cases h with ⟨e, -, rfl⟩ | ⟨-, u, ops, hb, rfl⟩ | ⟨-, u, done, l, v, left, hcut, rfl⟩ | ⟨hi, -⟩ |
    ⟨d, hi, -⟩ | ⟨d, _, _, _, _, hi, -⟩
  · simp at hok
  · exact ⟨u, ops, hb, rfl⟩
  · simp [hcut.same.returns] at hok
  · exact absurd hi hd
  · exact absurd hi (hc d)
  · exact absurd hi (hc d)

theorem request_completed_of_ok {i : Instr} {s t : State} (hr : needsReady i = true) (h : exec i s = .next t)
    (hok : t.returns = s.returns ++ [.ok]) : t = (flagWrite i s).completed (requestOps i (flagWrite i s)) := by
  obtain ⟨u, ops, hb, rfl⟩ := body_of_ok (by rintro d rfl; cases hr) (by rintro rfl; cases hr) h hok
  cases hb with
  | request => rfl
  | nibble0011 | nibble0010 | begin => simp [needsReady] at hr

theorem begin_completed_of_ok {columns lines : Nat} {m : Matrix} {s t : State}
    (h : exec (.beginInit columns lines m) s = .next t) (hok : t.returns = s.returns ++ [.ok]) :
    t = (beginDone (initStep0 columns lines m s)).completed (beginOps (initStep0 columns lines m s)) := by
  obtain ⟨u, ops, hb, rfl⟩ := body_of_ok (fun d hi => by cases hi) (by simp) h hok
  cases hb with
  | request _ hr => simp [needsReady] at hr
  | begin _ _ _ s0 h0 => rw [h0]

/-- Settles O53: E and RW by `exec_idleLevels`; RS is driven by the last SEND of the request. -/
theorem linesAreIdleBetweenRequests : Obligations.LinesAreIdleBetweenRequests := by
  refine ⟨fun s t => step_keeps (fun _ _ hs => hs) exec_idleLevels, fun i s t rs b hr _ h hok => ?_,
    fun columns lines m s t h hok => ?_⟩
  · rw [request_completed_of_ok hr h hok, State.completed_levels, requestOps, driven_append, driven_settle,
      flagWrite_levels]
    exact ⟨fun hl => driven_sends_rs hl _ _, fun hn => by simp [hn, driven]⟩
  · rw [begin_completed_of_ok h hok, State.completed_levels, driven_begin]
    exact driven_send_rs ..

/-! ### The other parts of the invariant -/

theorem exec_bindingOk (i : Instr) (s t : State) (hs : s.bindingOk) (h : exec i s = .next t) : t.bindingOk := by
  rcases exec_wiring h with hw | ⟨d, -, hd, u, -, rfl⟩
  · obtain ⟨hwidth, hrw, hlegal⟩ := hs
    rw [State.bindingOk, hw.pins, hw.busWidth, hw.hasRw]
    refine ⟨hwidth, hrw, fun ha => hlegal ?_⟩
    rcases hw.alive with he | ⟨-, he⟩
    · exact he.symm.trans ha
    · simp [he] at ha
  · exact ⟨rfl, rfl, fun _ => hd⟩

theorem ConfiguredBy.configured {columns lines : Nat} {m : Matrix} {t : State} (h : ConfiguredBy columns lines m t) :
    t.configured := by
  rw [State.configured, h.lineCount, h.matrix, h.rowOffsets]
  exact ⟨fun _ => ⟨rfl, rfl, rfl⟩, fun t ht => by cases ht; rfl⟩

theorem KeepsConfig.configured {s t : State} (h : KeepsConfig s t) (hs : s.configured) : t.configured := by
  rw [State.configured, h.lineCount, h.matrix, h.rowOffsets]
  refine ⟨fun hp => hs.1 ?_, hs.2⟩
  rcases h.phase with he | ⟨he, -⟩
  · exact he.symm.trans hp
  · simp [he] at hp

theorem exec_configured (i : Instr) (s t : State) (hs : s.configured) (h : exec i s = .next t) : t.configured := by
  rcases exec_config h with hk | ⟨_, _, _, -, hcfg, -⟩ | ⟨d, -, -, u, -, rfl⟩
  · exact hk.configured hs
  · exact hcfg.configured
  · exact ⟨nofun, nofun⟩

theorem exec_pos {i : Instr} {s t : State} (hs : s.pos = 0) (h : exec i s = .next t) : t.pos = 0 := by
  rcases exec_cases h with ⟨e, -, rfl⟩ | ⟨-, u, ops, hb, rfl⟩ | ⟨-, u, done, l, v, left, hc, rfl⟩ | ⟨rfl, -, rfl⟩ |
    ⟨d, rfl, -, rfl⟩ | ⟨d, pre, l, id, post, rfl, -, rfl⟩
  · exact hs
  all_goals rfl

theorem exec_betweenRequests (i : Instr) (s t : State) (hs : s.betweenRequests) (h : exec i s = .next t) :
    t.betweenRequests := by
  obtain ⟨hphase, hpos⟩ := hs
  refine ⟨?_, exec_pos hpos h⟩
  rcases exec_config h with hk | ⟨_, _, _, -, -, hp⟩ | ⟨d, -, -, u, -, rfl⟩
  · rcases hk.phase with he | ⟨he, -⟩
    · rwa [he]
    · exact .inr (.inr he)
  · exact .inr hp
  · exact .inl rfl

/-- No instruction that completes ends in PoweredUnknown, so RS is not driven before the first `begin`. -/
theorem Body.phase_ne_poweredUnknown {s u : State} {i : Instr} {ops : List BusOp} (h : Body s i u ops) :
    u.phase ≠ .poweredUnknown := by
  rcases h.begin_or_flagWrite with ⟨_, _, _, -, -, hp⟩ | ⟨rfl, hp | hp⟩ <;> simp [hp]

theorem exec_rsLowBeforeBegin (i : Instr) (s t : State) (hs : s.rsLowBeforeBegin) (h : exec i s = .next t) :
    t.rsLowBeforeBegin := by
  rcases exec_cases h with ⟨e, -, rfl⟩ | ⟨-, u, ops, hb, rfl⟩ | ⟨-, u, done, l, v, left, -, rfl⟩ | ⟨rfl, -, rfl⟩ |
    ⟨d, rfl, -, rfl⟩ | ⟨d, pre, l, id, post, rfl, -, rfl⟩
  · exact hs
  · exact fun hp => absurd hp hb.phase_ne_poweredUnknown
  · exact nofun
  · exact hs
  · exact fun _ => Levels.get_allLow .rs
  · exact hs

theorem exec_inv (i : Instr) (s t : State) (hs : s.Inv) (h : exec i s = .next t) : t.Inv := by
  obtain ⟨hmatrix, hidle, hbinding, hconfig, hrs, hbetween⟩ := hs
  exact ⟨exec_matrixOk i s t hmatrix h, exec_idleLevels i s t hidle h, exec_bindingOk i s t hbinding h,
    exec_configured i s t hconfig h, exec_rsLowBeforeBegin i s t hrs h, exec_betweenRequests i s t hbetween h⟩

/-- Settles O55: every instruction keeps each part of the invariant, which says nothing of the port. -/
theorem everyStepKeepsTheInvariant : Obligations.EveryStepKeepsTheInvariant :=
  fun _ _ => step_keeps (fun _ _ hs => hs) exec_inv

/-! ### Faults (D25; log 15) -/

theorem State.ready_of_admitted {s : State} {i : Instr} (h : s.admissionError i = none) :
    s.alive = true ∧ s.phase = .ready := by
  by_cases ha : s.alive = true
  · refine ⟨ha, ?_⟩
    by_contra hp
    simp [State.admissionError_of_notReady i ha hp] at h
  · simp [State.admissionError_of_dropped i (Bool.eq_false_iff.mpr ha)] at h

theorem State.cursorAddress_isSome {s : State} (hn : s.lineCount.isSome = true) (ht : s.rowOffsets.isSome = true)
    (col row : Nat) : (s.cursorAddress col row).isSome = true := by
  obtain ⟨n, hn⟩ := Option.isSome_iff_exists.mp hn
  obtain ⟨t, ht⟩ := Option.isSome_iff_exists.mp ht
  simp [State.cursorAddress, hn, ht]

theorem setCursor_fault {col row : Nat} {s : State} {f : Fault} (h : exec (.setCursor col row) s = .fault f) :
    s.alive = true ∧ s.phase = .ready ∧ ¬ s.configured := by
  simp only [exec, execSetCursor] at h
  split at h
  · cases h
  · cases h
  · next hadm haddr =>
    obtain ⟨ha, hp⟩ := State.ready_of_admitted hadm
    refine ⟨ha, hp, fun hcfg => ?_⟩
    obtain ⟨hn, -, ht⟩ := hcfg.1 hp
    simpa [haddr] using State.cursorAddress_isSome hn ht col row

theorem execNibble_ne_fault (i : Instr) (n : Nibble) (s : State) (f : Fault) : execNibble i n s ≠ .fault f := by
  rcases execNibble_cases i n s with ⟨-, he⟩ | ⟨-, -, he⟩ | ⟨r, -, -, -, he⟩ | ⟨-, -, -, -, he⟩ |
    ⟨-, -, -, _, _, _, _, _, -, -, he⟩ <;> simp [he]

theorem execConstruct_ne_fault (d : Binding) (s : State) (f : Fault) : execConstruct d s ≠ .fault f := by
  unfold execConstruct
  split <;> exact nofun

theorem execCreateChar_ne_fault (slot : Nat) (bitmap : List Byte) (s : State) (f : Fault) :
    execCreateChar slot bitmap s ≠ .fault f := by
  unfold execCreateChar
  split <;> exact nofun

/-- Only `set_cursor` faults, in a Ready state that is not configured. -/
theorem exec_fault {i : Instr} {s : State} {f : Fault} (h : exec i s = .fault f) :
    (∃ col row, i = .setCursor col row) ∧ s.alive = true ∧ s.phase = .ready ∧ ¬ s.configured := by
  cases i with
  | setCursor col row => exact ⟨⟨col, row, rfl⟩, setCursor_fault h⟩
  | initNibble0011 | initNibble0010 => exact absurd h (execNibble_ne_fault _ _ s f)
  | construct d => exact absurd h (execConstruct_ne_fault d s f)
  | createChar slot bitmap => exact absurd h (execCreateChar_ne_fault slot bitmap s f)
  | _ => cases h

/-- Settles O56: the fault needs a state that is not configured, and the invariant holds configured states only. -/
theorem invariantExcludesFaults : Obligations.InvariantExcludesFaults := by
  refine ⟨fun i s f h => exec_fault h, fun s f hs h => ?_⟩
  obtain ⟨-, -, -, hconfig, -⟩ := hs
  obtain ⟨o, rest, i, -, -, he⟩ := step_fault h
  obtain ⟨-, -, -, hnot⟩ := exec_fault he
  exact hnot hconfig

end Sys2Proof.Machine
end

section
/-! PROOFS. The lines as the engine's memory (20_memory.md): who owns them, what a SEND puts on them and the controller
latches from them, that a second setter leaves them as the first did, and that RW is never driven High. -/

namespace Sys2Proof.Machine

/-! ### Exclusive lines (R73, R342, D32) -/

theorem State.mem_takenIds (s : State) (id : LineId) :
    id ∈ s.takenIds ↔ id ∈ s.owned ∨ (s.alive = true ∧ id ∈ bindingIds s.pins) := by
  cases ha : s.alive <;> simp [State.takenIds, ha, or_comm]

/-- A construction with a line that is taken returns an error and leaves the engine in view alone. -/
theorem construct_fails_of_taken {d : Binding} {s : State} {id : LineId} (hid : id ∈ bindingIds d)
    (ht : id ∈ s.takenIds) : ∃ evs c, AnswersLike s (.construct d)
      { s with trace := s.trace ++ evs, returns := s.returns ++ [.err (.lineBinding c)] } := by
  rcases construct_cases d s with ⟨c, -, he⟩ | ⟨-, hfree, -, -⟩ | ⟨-, pre, l, id', post, -, -, he⟩
  · exact ⟨[], c, _, he, by simp [State.agrees, State.respond]⟩
  · obtain ⟨p, hp, rfl⟩ := List.mem_map.mp hid
    exact absurd ht (hfree p hp)
  · exact ⟨pre.map (fun p => .q p.1) ++ [.qBang l] ++ pre.reverse.map (fun p => .x p.1), .lineRefused l, _,
      he, by simp [State.agrees, State.drawn]⟩

/-- After a construction that returns Ok, other engines own the lines that were taken before it (R324; log 6). -/
theorem construct_owned_of_ok {d : Binding} {s t : State} (h : exec (.construct d) s = .next t)
    (hok : t.returns = s.returns ++ [.ok]) : t.owned = s.takenIds := by
  rcases construct_cases d s with ⟨c, -, he⟩ | ⟨-, -, -, he⟩ | ⟨-, pre, l, id, post, -, -, he⟩
  · cases h.symm.trans he
    simp at hok
  · cases h.symm.trans he
    rfl
  · cases h.symm.trans he
    simp at hok

/-- Settles O16: a construction succeeds only with lines that are not taken, and what was taken is owned from then on. -/
theorem overlappingBindingNeverSucceeds : Obligations.OverlappingBindingNeverSucceeds := by
  refine fun d s => ⟨?_, fun t h hok ha id hid => ?_⟩
  · rintro ⟨id, hid, ht⟩
    exact construct_fails_of_taken hid ((s.mem_takenIds id).mpr ht)
  · rw [construct_owned_of_ok h hok]
    exact (s.mem_takenIds id).mpr (.inr ⟨ha, hid⟩)

/-! ### What a SEND delivers (R63, R69, R90, R92) -/

/-- The nibble of a latch is what NIB drove on DB4..DB7. -/
theorem Latch.nibble_of_lvl (rs : Level) (db : Data8 Level) (n : Nibble) :
    Latch.nibble ⟨rs, { db with
      d4 := lvl (n.getLsbD 0), d5 := lvl (n.getLsbD 1), d6 := lvl (n.getLsbD 2), d7 := lvl (n.getLsbD 3) }⟩ = n := by
  simpa [Latch.nibble] using nibble_of_bits n

/-- The byte of a latch is what BYTE8 drove on DB0..DB7. -/
theorem Latch.byte_of_lvl (rs : Level) (b : Byte) :
    Latch.byte ⟨rs, ⟨lvl (b.getLsbD 0), lvl (b.getLsbD 1), lvl (b.getLsbD 2), lvl (b.getLsbD 3), lvl (b.getLsbD 4),
      lvl (b.getLsbD 5), lvl (b.getLsbD 6), lvl (b.getLsbD 7)⟩⟩ = b := by
  simpa [Latch.byte, Latch.nibble] using byte_of_bits b

/-- Choosing the register (RS, and RW Low when bound) latches nothing. -/
theorem latchesFrom_select (v : Levels) (rest : List Event) (hasRw : Bool) (rs : Level) :
    latchesFrom v none ((BusOp.write .rs rs :: rwLowOps hasRw).map BusOp.event ++ rest) =
      latchesFrom (driven (.write .rs rs :: rwLowOps hasRw) v) none rest := by
  cases hasRw <;> simp [rwLowOps, BusOp.event, driven]

@[simp] theorem driven_select_rs (v : Levels) (hasRw : Bool) (rs : Level) :
    (driven (.write .rs rs :: rwLowOps hasRw) v).rs = rs := by
  cases hasRw <;> simp [rwLowOps, driven, Levels.set]

/-- A SEND delivers its byte with its RS level, before whatever the rest of the trace delivers. -/
theorem delivered_send (w : BusWidth) (hasRw : Bool) (b : Byte) (rs : Level) (v : Levels) (rest : List Event) :
    delivered w (latchesFrom v none ((sendOps w hasRw b rs).map BusOp.event ++ rest)) =
      (rs, b) :: delivered w (latchesFrom (driven (sendOps w hasRw b rs) v) none rest) := by
  unfold sendOps
  rw [← List.cons_append, List.map_append, List.append_assoc, latchesFrom_select, driven_append]
  cases w with
  | w8 => simp only [latchesFrom_byte8, delivered, List.map_cons, Latch.byte_of_lvl, driven_select_rs]
  | w4 =>
    simp only [List.map_append, List.append_assoc, latchesFrom_nib, delivered, pairNibbles, Latch.nibble_of_lvl,
      byte_of_nibbles, driven_select_rs, driven_append]

/-- Settles O20: it is `delivered_send` for a trace that ends with the SEND. -/
theorem sendDeliversItsByte : Obligations.SendDeliversItsByte := by
  intro w rw b rs v
  have h := delivered_send w rw b rs v []
  rw [List.append_nil, latchesFrom_nil] at h
  cases w <;> exact h

/-! ### A request of the Ready class made twice (R68, R240) -/

/-- Driving the lines a second time as a list of transfers has left them changes none. -/
theorem driven_driven (ops : List BusOp) (v : Levels) : driven ops (driven ops v) = driven ops v := by
  refine Levels.ext_get fun l => ?_
  rcases lastWrite_events l ops (driven ops v) with ⟨-, hd⟩ | ⟨a, hs, hd⟩
  · exact hd
  · rw [hd, (shadowSays_events l ops v).2 a hs]

theorem flagWrite_flagWrite (i : Instr) (s : State) : flagWrite i (flagWrite i s) = flagWrite i s := by
  cases i <;> rfl

theorem flagWrite_completed (i : Instr) (s : State) (ops : List BusOp) :
    flagWrite i (s.completed ops) = (flagWrite i s).completed ops := by
  cases i <;> rfl

/-- What a request sends does not depend on what a request before it has sent. -/
theorem requestOps_completed (i : Instr) (s : State) (ops : List BusOp) :
    requestOps i (s.completed ops) = requestOps i s := by
  cases i <;> rfl

/-- Completing the same transfers twice adds their events and the return a second time, and nothing else. -/
theorem State.completed_completed_agrees (s : State) (ops : List BusOp) :
    ((s.completed ops).completed ops).agrees
      { s.completed ops with
        trace := (s.completed ops).trace ++ ops.map BusOp.event
        returns := (s.completed ops).returns ++ [.ok] } := by
  apply State.ext_fields <;> simp [driven_driven]

/-- Settles O42: the second call writes the flag value that stands already, so it sends the same list, which leaves the
lines where they are. -/
theorem settersAreIdempotent : Obligations.SettersAreIdempotent := by
  intro i s t u hi h hok h' hok'
  have hr : needsReady i = true := List.all_eq_true.mp (by decide) i hi
  have hu := request_completed_of_ok hr h' hok'
  obtain rfl := request_completed_of_ok hr h hok
  rw [flagWrite_completed, flagWrite_flagWrite, requestOps_completed] at hu
  subst hu
  exact ⟨_, by rw [State.completed_trace, flagWrite_trace], State.completed_completed_agrees ..⟩

/-! ### RW (R66) -/

theorem Transfers.rw_high_not_mem {hasRw : Bool} {ops : List BusOp} (h : Transfers hasRw ops) :
    BusOp.write .rw .high ∉ ops :=
  fun hm => absurd (h.rw_writes .high hm).1 (by decide)

/-- Settles O58: a list of transfers writes only Low on RW, up to a refused write and at it; `construct` and `drop` write
no line. -/
theorem rwIsNeverDrivenHigh : Obligations.RwIsNeverDrivenHigh := by
  intro i s t h
  rcases exec_cases h with ⟨e, -, rfl⟩ | ⟨-, u, ops, hb, rfl⟩ | ⟨-, u, done, l, v, left, hc, rfl⟩ | ⟨rfl, -, rfl⟩ |
    ⟨d, rfl, -, rfl⟩ | ⟨d, pre, l, id, post, rfl, -, rfl⟩
  · exact ⟨[], by simp, by simp, by simp⟩
  · refine ⟨ops.map BusOp.event, by simp [hb.same.trace], ?_, wBang_not_mem_events ops .rw .high⟩
    rw [w_mem_events]
    exact hb.transfers.rw_high_not_mem
  · obtain ⟨rest, hops⟩ := hc.transfers
    have hn := hops.rw_high_not_mem
    simp only [List.mem_append, List.mem_cons, BusOp.write.injEq, not_or] at hn
    obtain ⟨hdone, hlast, -⟩ := hn
    refine ⟨done.map BusOp.event ++ [.wBang l v], by simp [hc.same.trace], ?_, ?_⟩
    · simpa [w_mem_events] using hdone
    · simpa [wBang_not_mem_events] using hlast
  · exact ⟨_, rfl, by simp, by simp⟩
  · exact ⟨_, rfl, by simp, by simp⟩
  · exact ⟨pre.map (fun p => .q p.1) ++ [.qBang l] ++ pre.reverse.map (fun p => .x p.1), by simp, by simp, by simp⟩

end Sys2Proof.Machine
end

section
/-! PROOFS. The encoding of 30_encoding.md. The decoder and the encoder are each other's inverse (`decode_of_encode`,
`encode_of_decodeWord`); from this follow the words outside the table (R96), the opcode as the highest set bit (R95) and what
a bus word sends (R90). Then the requests as calls: one return each, and no other call (R97). -/

namespace Sys2Proof

/-! ### Decoding the word of an instruction (R93, R130) -/

theorem decode_of_encode {i : Instr} {w : BusWord} (h : encode i = some w) : decode w = .ok i := by
  cases i with
  | clearDisplay => exact Laws.RoundTrip.clearDisplay w h
  | returnHome x => exact Laws.RoundTrip.returnHome x w h
  | entryModeSet ltr shift => exact Laws.RoundTrip.entryModeSet ltr shift w h
  | displayControl d c b => exact Laws.RoundTrip.displayControl d c b w h
  | cursorOrDisplayShift t r x => exact Laws.RoundTrip.cursorOrDisplayShift t r x w h
  | functionSet l n f x => exact Laws.RoundTrip.functionSet l n f x w h
  | setCgramAddress a => exact Laws.RoundTrip.setCgramAddress a w h
  | setDdramAddress a => exact Laws.RoundTrip.setDdramAddress a w h
  | writeData d => exact Laws.RoundTrip.writeData d w h
  | initNibble0011 => exact Laws.RoundTrip.initNibble0011 w h
  | initNibble0010 => exact Laws.RoundTrip.initNibble0010 w h
  | _ => cases h

/-- Widening a word and taking the low bits back gives the word. -/
theorem extractLsb'_setWidth {m n : Nat} (h : m ≤ n) (x : BitVec m) : (x.setWidth n).extractLsb' 0 m = x := by
  rw [← BitVec.setWidth_eq_extractLsb' h, BitVec.setWidth_setWidth_of_le _ h, BitVec.setWidth_eq]

/-- The bytes of a table word are read back as the word (log 12). -/
theorem busWordOfBytes_bytes (w : BusWord) : busWordOfBytes w.bytes = .ok w := by
  cases w with
  | word w =>
    have hspare : ((w.extractLsb' 8 1).setWidth 8).extractLsb' 1 7 = 0#7 := by
      ext j hj
      simp
    have hrs : ((w.extractLsb' 8 1).setWidth 8).extractLsb' 0 1 = w.extractLsb' 8 1 :=
      extractLsb'_setWidth (by decide) _
    have hword : w.extractLsb' 8 1 ++ w.extractLsb' 0 8 = w := BitVec.extractLsb'_append_extractLsb'
    simp [BusWord.bytes, busWordOfBytes, hspare, hrs, hword]
  | nibble n =>
    have hspare : (n.setWidth 8).extractLsb' 4 4 = 0#4 := by
      ext j hj
      simp
    have hnibble : (n.setWidth 8).extractLsb' 0 4 = n := extractLsb'_setWidth (by decide) n
    simp [BusWord.bytes, busWordOfBytes, hspare, hnibble]

/-- Settles O1: the bytes of a word are read back as the word, and the word as the instruction. -/
theorem decodeEncodeAgree : Obligations.DecodeEncodeAgree := by
  intro i w h
  have hd := decode_of_encode h
  exact ⟨hd, by simp [decodeBytes, busWordOfBytes_bytes, hd]⟩

/-- Settles O8: each word written out is the word the encoder gives. -/
theorem writtenWordsDecode : Obligations.WrittenWordsDecode :=
  ⟨decode_of_encode rfl, decode_of_encode rfl, decode_of_encode rfl, decode_of_encode rfl, decode_of_encode rfl,
    decode_of_encode rfl, decode_of_encode rfl, decode_of_encode rfl, decode_of_encode rfl, decode_of_encode rfl,
    decode_of_encode rfl⟩

/-! ### Encoding what was decoded (R93 to R96, R130) -/

@[simp] theorem bit_widthOfBit (b : Bool) : (widthOfBit b).bit = b := by cases b <;> rfl

@[simp] theorem bit_linesOfBit (b : Bool) : (linesOfBit b).bit = b := by cases b <;> rfl

@[simp] theorem bit_matrixOfBit (b : Bool) : (matrixOfBit b).bit = b := by cases b <;> rfl

@[simp] theorem bit_targetOfBit (b : Bool) : (targetOfBit b).bit = b := by cases b <;> rfl

@[simp] theorem bit_directionOfBit (b : Bool) : (directionOfBit b).bit = b := by cases b <;> rfl

/-- In each branch of the decoder the pattern of the instruction agrees with the word bit by bit: the opcode bits are
those the branch has tested, the others the operands. -/
theorem encode_of_decodeWord {w : BitVec 9} {i : Instr} (h : decodeWord w = .ok i) : encode i = some (.word w) := by
  unfold decodeWord at h
  split_ifs at h <;> cases h <;> rw [encode, Option.some_inj, BusWord.word.injEq]
  all_goals
    refine BitVec.eq_of_getLsbD_eq fun j hj => ?_
    repeat rw [BitVec.getLsbD_append]
    interval_cases j <;> simp_all

theorem decodeWord_error {w : BitVec 9} {why : DecodeError} (h : decodeWord w = .error why) : w = 0#9 := by
  unfold decodeWord at h
  split_ifs at h
  refine BitVec.eq_of_getLsbD_eq fun j hj => ?_
  interval_cases j <;> simp_all

theorem exists_decodeWord {w : BitVec 9} (h : w ≠ 0#9) : ∃ i, decodeWord w = .ok i := by
  cases hd : decodeWord w with
  | ok i => exact ⟨i, rfl⟩
  | error why => exact absurd (decodeWord_error hd) h

theorem encode_of_decodeNibble {n : Nibble} {i : Instr} (h : decodeNibble n = .ok i) : encode i = some (.nibble n) := by
  unfold decodeNibble at h
  split_ifs at h with h0011 h0010
  · cases h
    rw [h0011]
    rfl
  · cases h
    rw [h0010]
    rfl

/-- Settles O2: for the 9-bit words by the decoder's branches, for the nibbles by its two. -/
theorem encodeDecodeAgree : Obligations.EncodeDecodeAgree := by
  intro w i h
  cases w with
  | word w => exact encode_of_decodeWord h
  | nibble n => exact encode_of_decodeNibble h

/-- Settles O9: the only branch of the decoder of words that refuses has found no bit set. -/
theorem wordsOutsideTheTableAreRejected : Obligations.WordsOutsideTheTableAreRejected := by
  refine ⟨fun w => ⟨?_, exists_decodeWord⟩, rfl, fun n => ⟨?_, ?_⟩, fun n h3 h2 => ?_⟩
  · rintro ⟨i, h⟩ rfl
    cases h
  · rintro ⟨i, h⟩
    by_contra hn
    obtain ⟨h3, h2⟩ := not_or.mp hn
    simp [decode, decodeNibble, h3, h2] at h
  · rintro (rfl | rfl)
    · exact ⟨.initNibble0011, rfl⟩
    · exact ⟨.initNibble0010, rfl⟩
  · simp [decode, decodeNibble, h3, h2]

/-! ### The opcode is the highest set bit (R95) -/

theorem log2_of_highest_bit {n : Nat} {b : BitVec n} {k : Nat} (hk : b.getLsbD k = true)
    (hhigh : ∀ j, k < j → j < n → b.getLsbD j = false) : b.toNat.log2 = k := by
  have hlow : 2 ^ k ≤ b.toNat := Nat.ge_two_pow_of_testBit hk
  have hlt : b.toNat < 2 ^ (k + 1) := by
    refine Nat.lt_pow_two_of_testBit _ fun j hj => ?_
    by_cases hn : j < n
    · exact hhigh j hj hn
    · exact BitVec.getLsbD_of_ge b j (by omega)
  exact (Nat.log2_eq_iff (by have := Nat.two_pow_pos k; omega)).mpr ⟨hlow, hlt⟩

/-- The branch that decodes a word with RS = 0 has tested the higher bits and found them 0. -/
theorem opcodeBit_of_decodeWord {w : BitVec 9} {i : Instr} (hrs : w.getLsbD 8 = false) (h : decodeWord w = .ok i) :
    Machine.opcodeBit i = some w.toNat.log2 := by
  unfold decodeWord at h
  rw [if_neg (Bool.eq_false_iff.mp hrs)] at h
  split_ifs at h <;> cases h
  all_goals
    refine congrArg some (log2_of_highest_bit ‹_› fun j hj hj9 => ?_).symm
    interval_cases j <;> simp_all

/-- Clause 1 of R95, for a byte sent with RS = 0. -/
theorem exists_decodeWord_opcodeBit {b : Byte} (hb : b ≠ 0#8) :
    ∃ i, decodeWord (0#1 ++ b) = .ok i ∧ Machine.opcodeBit i = some b.toNat.log2 := by
  have hnat : (0#1 ++ b).toNat = b.toNat := by rw [BitVec.toNat_append]; simp
  obtain ⟨i, hi⟩ := exists_decodeWord (w := 0#1 ++ b) fun h0 => hb <| by
    rw [h0] at hnat
    exact (BitVec.eq_of_toNat_eq hnat).symm
  refine ⟨i, hi, ?_⟩
  rw [← hnat]
  exact opcodeBit_of_decodeWord (by rw [BitVec.getLsbD_append]; simp) hi

namespace Machine

/-! ### The encoder's bytes are patterns with their `x` bits 0 (R93, R121 to R128) -/

theorem wordByte_of_encode {i : Instr} {w : BitVec 9} (h : encode i = some (.word w)) : wordByte i = w.setWidth 8 := by
  rw [wordByte, h, BitVec.setWidth_eq_extractLsb' (by decide)]

theorem State.em_eq_wordByte (s : State) : s.em = wordByte (.entryModeSet s.entryLtr s.entryShift) := by
  rw [State.em]
  cases s.entryLtr <;> cases s.entryShift <;> rfl

theorem State.dc_eq_wordByte (s : State) : s.dc = wordByte (.displayControl s.displayOn s.cursorOn s.blinkOn) := by
  rw [State.dc]
  cases s.displayOn <;> cases s.cursorOn <;> cases s.blinkOn <;> rfl

theorem shByte_eq_wordByte (t : ShiftTarget) (d : Direction) :
    shByte t d = wordByte (.cursorOrDisplayShift t d 0#2) := by
  cases t <;> cases d <;> rfl

theorem State.fs_eq_wordByte {s : State} {n : LineCount} {m : Matrix} (hn : s.lineCount = some n)
    (hm : s.matrix = some m) : s.fs = wordByte (.functionSet s.busWidth n m 0#2) := by
  rw [State.fs, hn, hm]
  cases s.busWidth <;> cases n <;> cases m <;> rfl

theorem cgByte_eq_wordByte (slot : Nat) :
    cgByte slot = wordByte (.setCgramAddress (BitVec.ofNat 6 (slot % 8 * 8))) := by
  have hslot : slot % 8 < 8 := Nat.mod_lt _ (by decide)
  rw [cgByte]
  interval_cases slot % 8 <;> rfl

theorem ddByte_eq_wordByte (a : Nat) : ddByte a = wordByte (.setDdramAddress (BitVec.ofNat 7 a)) := by
  have haddr : BitVec.ofNat 8 (a % 128) = (BitVec.ofNat 7 a).setWidth 8 := by
    apply BitVec.eq_of_toNat_eq
    simp
  have hbit : ∀ x : BitVec 7, 0x80#8 ||| x.setWidth 8 = wordByte (.setDdramAddress x) := by decide
  rw [ddByte, haddr, hbit]

/-! ### What a request of the Ready class answers (R240, R302 to R307) -/

theorem answersAt_request {i : Instr} {s : State} (hr : needsReady i = true) (hw : i.wellFormed = true)
    (hf : fieldsSet i s) : AnswersAt s i (flagWrite i s) (requestOps i (flagWrite i s)) := by
  obtain ⟨body, he, hb⟩ := request_body i s hr hw hf
  exact answersAt_of_serve he hb (flagWrite_answers i s) (flagWrite_draws i s)

theorem requestOps_of_single {i : Instr} {s : State} {rs : Level} {b : Byte} (hb : busWords i s = [(rs, b)])
    (hs : settleOps i = []) : requestOps i s = s.sendOps b rs := by
  simp [requestOps, hb, hs]

/-- Settles O3: the decoder's branch, the encoder's bytes one by one, and `command` as a request of the Ready class. -/
theorem decodePicksHighestSetBit : Obligations.DecodePicksHighestSetBit := by
  refine ⟨fun b hb => exists_decodeWord_opcodeBit hb, ⟨rfl, rfl, State.em_eq_wordByte, State.dc_eq_wordByte,
    shByte_eq_wordByte, fun s n m hn hm => State.fs_eq_wordByte hn hm, cgByte_eq_wordByte, ddByte_eq_wordByte⟩,
    fun b s ha hp hg => ?_⟩
  have hops : requestOps (.command b) s = s.sendOps b .low := requestOps_of_single rfl rfl
  obtain ⟨-, -, hok, -⟩ := answersAt_request (i := .command b) (s := s) rfl rfl trivial
  rw [← hops] at hg ⊢
  exact hok ha hp hg

/-! ### Bus words as instructions (R90, R165, R166; log 3) -/

/-- A 9-bit word is a request of the Ready class that writes no field and adds no settle. -/
theorem request_of_word {i : Instr} {w : BitVec 9} (h : encode i = some (.word w)) (s : State) :
    needsReady i = true ∧ i.wellFormed = true ∧ fieldsSet i s ∧ flagWrite i s = s ∧ settleOps i = [] := by
  cases i with
  | clearDisplay | returnHome | entryModeSet | displayControl | cursorOrDisplayShift | functionSet | setCgramAddress
  | setDdramAddress | writeData => exact ⟨rfl, rfl, trivial, rfl, rfl⟩
  | _ => cases h

/-- A 9-bit word sends its low 8 bits with its RS bit: with RS = 1 it decodes to `writeData`, with RS = 0 to one of the
instructions that have an opcode bit. -/
theorem busWords_of_word {i : Instr} {w : BitVec 9} (h : encode i = some (.word w)) (s : State) :
    busWords i s = [(lvl (w.getLsbD 8), w.setWidth 8)] := by
  have hd : decodeWord w = .ok i := decode_of_encode h
  cases hrs : w.getLsbD 8 with
  | true =>
    rw [decodeWord, if_pos hrs] at hd
    cases hd
    rw [BitVec.setWidth_eq_extractLsb' (by decide)]
    rfl
  | false =>
    have hop := opcodeBit_of_decodeWord hrs hd
    rw [← wordByte_of_encode h]
    cases i with
    | clearDisplay | returnHome | entryModeSet | displayControl | cursorOrDisplayShift | functionSet | setCgramAddress
    | setDdramAddress => rfl
    | _ => cases hop

/-- Settles O23: a 9-bit word is a request of the Ready class whose transfers are the one SEND of the word. -/
theorem busWordsAreSentAsTheyStand : Obligations.BusWordsAreSentAsTheyStand := by
  intro i w s h
  obtain ⟨hr, hw, hf, hflag, hsettle⟩ := request_of_word h s
  have ha := answersAt_request hr hw hf
  rw [hflag, requestOps_of_single (busWords_of_word h s) hsettle] at ha
  exact ha

/-! ### One return per request, and the calls there are (R97, R302) -/

/-- `r` is a LineWriteError exactly for the refused writes among `evs`, and a refused write ends `evs` (R302, R303). -/
def ReportsRefusal (r : Result) (evs : List Event) : Prop :=
  (∀ l v, (∃ k, r = .err (.lineWrite l v k)) ↔ Event.wBang l v ∈ evs) ∧
  ∀ l v, Event.wBang l v ∈ evs → ∃ pre : List Event, evs = pre ++ [Event.wBang l v]

theorem reportsRefusal_of_none {r : Result} {evs : List Event} (hr : ∀ l v k, r ≠ .err (.lineWrite l v k))
    (he : ∀ l v, Event.wBang l v ∉ evs) : ReportsRefusal r evs :=
  ⟨fun l v => ⟨fun ⟨k, h⟩ => absurd h (hr l v k), fun h => absurd h (he l v)⟩, fun l v h => absurd h (he l v)⟩

theorem reportsRefusal_of_refused (done : List BusOp) (l : Line) (v : Level) (k : Nat) :
    ReportsRefusal (.err (.lineWrite l v k)) (done.map BusOp.event ++ [Event.wBang l v]) := by
  have hmem : ∀ l' v', Event.wBang l' v' ∈ done.map BusOp.event ++ [Event.wBang l v] ↔ l' = l ∧ v' = v := by
    simp [wBang_not_mem_events]
  refine ⟨fun l' v' => ?_, fun l' v' h => ?_⟩
  · rw [hmem]
    simp [eq_comm]
  · obtain ⟨rfl, rfl⟩ := (hmem l' v').mp h
    exact ⟨_, rfl⟩

/-- Settles O47: of all that an instruction can do, only a cut list of transfers holds a refused write. -/
theorem oneReturnPerRequest : Obligations.OneReturnPerRequest := by
  intro i s t h
  suffices ∃ evs r, t.trace = s.trace ++ evs ∧ t.returns = s.returns ++ [r] ∧ t.port = s.port ∧ ReportsRefusal r evs
    from this
  rcases exec_cases h with ⟨e, he, rfl⟩ | ⟨-, u, ops, hb, rfl⟩ | ⟨-, u, done, l, v, left, hc, rfl⟩ | ⟨rfl, -, rfl⟩ |
    ⟨d, rfl, -, rfl⟩ | ⟨d, pre, l, id, post, rfl, -, rfl⟩
  · refine ⟨[], _, by simp, rfl, rfl, reportsRefusal_of_none ?_ (by simp)⟩
    rintro l v k ⟨⟩
    cases he
  · exact ⟨ops.map BusOp.event, .ok, by simp [hb.same.trace], by simp [hb.same.returns], hb.same.port,
      reportsRefusal_of_none nofun (wBang_not_mem_events ops)⟩
  · exact ⟨done.map BusOp.event ++ [Event.wBang l v], .err (.lineWrite l v done.length), by simp [hc.same.trace],
      by simp [hc.same.returns], hc.same.port, reportsRefusal_of_refused done l v done.length⟩
  · exact ⟨_, _, rfl, rfl, rfl, reportsRefusal_of_none nofun (by simp)⟩
  · exact ⟨_, _, rfl, rfl, rfl, reportsRefusal_of_none nofun (by simp)⟩
  · exact ⟨pre.map (fun p => Event.q p.1) ++ [Event.qBang l] ++ pre.reverse.map (fun p => Event.x p.1), _, by simp, rfl, rfl,
      reportsRefusal_of_none nofun (by simp)⟩

/-- Settles O40: `create_char` serves its call only after the test of the bitmap's length. -/
theorem malformedCreateCharIsRefused : Obligations.MalformedCreateCharIsRefused := by
  intro slot bitmap s hlen
  rw [exec, execCreateChar, if_neg hlen]

end Machine
end Sys2Proof
end

section
/-! PROOFS. The Command Encoder of 40_command_encoder.md. The bytes it computes (R121 to R128), and the two instructions
that show them on the bus: `create_char`, whose slot wraps (R127), and the negotiation nibbles (R130), which are one NIB
where step 1 of `begin` has left the engine. -/

namespace Sys2Proof.Machine

/-! ### The bytes of the encoder functions (R121 to R128) -/

/-- Settles O4: the encoder functions compute, so each entry of the tables is a closed fact. -/
theorem encoderProducesTableBytes : Obligations.EncoderProducesTableBytes := by
  unfold Obligations.EncoderProducesTableBytes
  decide

/-- The slot wraps at three bits, which are those that reach the CGRAM address (R127). -/
theorem cgByte_eq_shifted (slot : Nat) : cgByte slot = 0x40#8 ||| BitVec.ofNat 8 ((slot &&& 7) <<< 3) := by
  have hmask : slot &&& 7 = slot % 8 := Nat.and_two_pow_sub_one_eq_mod slot 3
  have hslot : slot % 8 < 8 := Nat.mod_lt _ (by decide)
  rw [cgByte, hmask]
  interval_cases slot % 8 <;> rfl

/-- Settles O5: CLR and DC by their definitions, CG by the mask that is the slot mod 8. -/
theorem encoderFunctionsOfTheSource : Obligations.EncoderFunctionsOfTheSource :=
  ⟨rfl, fun _ => rfl, cgByte_eq_shifted⟩

/-- Setting bit 7 of a byte keeps the low seven bits and nothing else. -/
theorem toNat_bit7_or : ∀ b : Byte, (0x80#8 ||| b).toNat = 128 + b.toNat % 128 := by decide

theorem ddByte_toNat (a : Nat) : (ddByte a).toNat = 128 + a % 128 := by
  rw [ddByte, toNat_bit7_or, BitVec.toNat_ofNat]
  omega

/-- Settles O6: both forms are bit 7 set over a byte that agrees with the address mod 128. -/
theorem ddByteIsAddressModulo128 : Obligations.DdByteIsAddressModulo128 := by
  intro a
  have hor : (0x80 ||| a) % 256 = 128 + a % 128 := calc
    (0x80 ||| a) % 256 = (0x80#8 ||| BitVec.ofNat 8 a).toNat := by simp [Nat.or_mod_two_pow (n := 8)]
    _ = 128 + a % 256 % 128 := by rw [toNat_bit7_or, BitVec.toNat_ofNat]
    _ = 128 + a % 128 := by omega
  exact ⟨ddByte_toNat a, (ddByte_toNat a).trans hor.symm⟩

/-! ### The values of FS (R126, R27) -/

theorem State.fs_eq_fsByte {s : State} {n : LineCount} {m : Matrix} (hn : s.lineCount = some n)
    (hm : s.matrix = some m) : s.fs = fsByte s.busWidth.bit n.bit m.bit := by
  rw [State.fs, hn, hm]
  rfl

/-- The values of FS under R27 are those of the three fields, with 5×10 on one line only. -/
theorem exists_fs_iff (b : Byte) :
    (∃ s : State, s.matrixOk ∧ s.lineCount.isSome = true ∧ s.matrix.isSome = true ∧ s.fs = b) ↔
      ∃ (w : BusWidth) (n : LineCount) (m : Matrix), (m = .m5x10 → n = .one) ∧ fsByte w.bit n.bit m.bit = b := by
  constructor
  · rintro ⟨s, hok, hn, hm, rfl⟩
    obtain ⟨n, hn⟩ := Option.isSome_iff_exists.mp hn
    obtain ⟨m, hm⟩ := Option.isSome_iff_exists.mp hm
    refine ⟨s.busWidth, n, m, fun h => ?_, (State.fs_eq_fsByte hn hm).symm⟩
    exact Option.some_inj.mp (hn.symm.trans (hok (hm.trans (congrArg some h))))
  · rintro ⟨w, n, m, hok, rfl⟩
    exact ⟨{ State.reset with busWidth := w, lineCount := some n, matrix := some m },
      fun h => congrArg some (hok (Option.some_inj.mp h)), rfl, rfl, State.fs_eq_fsByte rfl rfl⟩

/-- Settles O7: of the eight settings of the three fields R27 leaves six, one for each value. -/
theorem functionSetReachesSixValues : Obligations.FunctionSetReachesSixValues := by
  intro b
  rw [exists_fs_iff]
  constructor
  · rintro ⟨w, n, m, hok, rfl⟩
    cases m with
    | m5x8 => cases w <;> cases n <;> decide
    | m5x10 =>
      cases hok rfl
      cases w <;> decide
  · intro hb
    simp only [List.mem_cons, List.not_mem_nil, or_false] at hb
    rcases hb with rfl | rfl | rfl | rfl | rfl | rfl
    · exact ⟨.w4, .one, .m5x8, by decide⟩
    · exact ⟨.w4, .one, .m5x10, by decide⟩
    · exact ⟨.w4, .two, .m5x8, by decide⟩
    · exact ⟨.w8, .one, .m5x8, by decide⟩
    · exact ⟨.w8, .one, .m5x10, by decide⟩
    · exact ⟨.w8, .two, .m5x8, by decide⟩

/-! ### Slots wrap (R127, R257) -/

theorem cgByte_mod (slot : Nat) : cgByte (slot % 8) = cgByte slot := by
  rw [cgByte, cgByte, Nat.mod_mod]

theorem requestOps_createChar_mod (slot : Nat) (bitmap : List Byte) (s : State) :
    requestOps (.createChar (slot % 8) bitmap) s = requestOps (.createChar slot bitmap) s := by
  simp only [requestOps, busWords, settleOps, cgByte_mod]

/-- On a Ready engine a request of the Ready class is admitted: its field write, its transfers, its return. -/
theorem exec_of_ready {i : Instr} {s : State} (hr : needsReady i = true) (hw : i.wellFormed = true) (hf : fieldsSet i s)
    (ha : s.alive = true) (hp : s.phase = .ready) :
    exec i s = .next (runOps (requestOps i (flagWrite i s)) ((flagWrite i s).setPos 0)).close := by
  obtain ⟨body, he, hb⟩ := request_body i s hr hw hf
  rw [he, State.admissionError_of_ready i ha hp, State.serve_none, hb]

/-- Settles O41: the two calls write no field and perform the same transfers. -/
theorem createCharSlotsWrap : Obligations.CreateCharSlotsWrap := by
  intro slot bitmap s hlen ha hp
  have hw : ∀ k, (Instr.createChar k bitmap).wellFormed = true := fun _ => beq_iff_eq.mpr hlen
  refine ⟨_, exec_of_ready rfl (hw slot) trivial ha hp, ?_⟩
  rw [exec_of_ready rfl (hw (slot % 8)) trivial ha hp, requestOps_createChar_mod]
  rfl

/-! ### Negotiation nibbles (R130, R162, R92; log 4) -/

theorem execNibble_of_not_alive (i : Instr) (n : Nibble) {s : State} (ha : s.alive = false) :
    execNibble i n s = .next (s.respond (.err (.dropped i))) := by
  simp [execNibble, State.nibbleError, State.rejectCall, ha]

theorem execNibble_of_faulted (i : Instr) (n : Nibble) {s : State} (ha : s.alive = true) (hp : s.phase = .faulted) :
    execNibble i n s = .next (s.respond (.err (.notReady i .faulted))) := by
  simp [execNibble, State.nibbleError, State.rejectCall, ha, hp]

/-- Where R203 sends it, a nibble is one NIB and its return. -/
theorem execNibble_of_negotiating (i : Instr) (n : Nibble) {s : State} (ha : s.alive = true) (hw : s.busWidth = .w4)
    (hp : s.phase = .forcedIdle) (hrs : s.levels.get .rs = .low) :
    execNibble i n s = .next (runOps (nibOps n) (s.setPos 0)).close := by
  simp [execNibble, State.nibbleError, State.nibbleRefusal, State.negotiating, sendNibble, ha, hw, hp, hrs]

/-- A NIB alone is read as a single nibble, with RS as it stands. -/
theorem wordsOf_nib (v : Levels) (n : Nibble) :
    wordsOf .w4 1 (latches v ((nibOps n).map BusOp.event)) = [.nibble (v.get .rs) n] := by
  rw [latches, latchesFrom_nib_last]
  simpa [wordsOf, pairNibbles, Levels.get] using Latch.nibble_of_lvl v.rs v.db n

/-- A run that goes on has performed all of its list. -/
theorem runOps_go {ops : List BusOp} {s t : State} (h : runOps ops s = .go t) :
    t = (s.performed ops).setPos (s.pos + ops.length) := by
  rcases granted_or_refused ops s with hg | ⟨done, l, v, rest, left, rfl, hr⟩
  · rw [runOps_granted ops s hg] at h
    cases h
    rfl
  · rw [runOps_refused done l v left rest s hr] at h
    cases h

@[simp] theorem driven_forcedIdle_rs (hasRw : Bool) (v : Levels) :
    (driven (forcedIdleOps hasRw) v).get .rs = .low := by
  cases hasRw <;> simp [forcedIdleOps, rwLowOps, driven, Levels.get, Levels.set]

/-- Step 1 leaves the engine where a nibble is sent: ForcedIdle, RS Low (R202). -/
theorem initStep1_go {s t : State} (h : initStep1 s = .go t) :
    t.alive = s.alive ∧ t.busWidth = s.busWidth ∧ t.phase = .forcedIdle ∧ t.levels.get .rs = .low := by
  rw [initStep1] at h
  cases hrun : runOps (forcedIdleOps s.hasRw) s with
  | raised e u =>
    rw [hrun] at h
    cases h
  | go u =>
    rw [hrun] at h
    cases h
    cases runOps_go hrun
    simp

/-- Settles O24: both nibbles are `execNibble`, whose ways are said once above; step 1 is `initStep1_go`. -/
theorem nibblesTransferOnFourBitBus : Obligations.NibblesTransferOnFourBitBus := by
  intro i n s hi
  have hexec : exec i s = execNibble i n s := by
    rcases hi with ⟨rfl, rfl⟩ | ⟨rfl, rfl⟩ <;> rfl
  have hsingle : singleNibbles i .w4 = 1 := by
    rcases hi with ⟨rfl, -⟩ | ⟨rfl, -⟩ <;> rfl
  refine ⟨fun ha => ?_, fun ha hp => ?_, fun ha hw hp hrs => ?_, fun columns lines m t h => ?_⟩
  · exact hexec.trans (execNibble_of_not_alive i n ha)
  · exact hexec.trans (execNibble_of_faulted i n ha hp)
  · have hrun := hexec.trans (execNibble_of_negotiating i n ha hw hp hrs)
    refine ⟨fun hg => ⟨_, hrun, ?_⟩, fun done l v rest left hops hr => ⟨_, hrun, ?_⟩, ?_⟩
    · rw [close_runOps_granted rfl rfl hg]
      exact State.agrees_refl _
    · rw [hops, close_runOps_refused rest rfl rfl hr]
      exact State.agrees_refl _
    · rw [received, hsingle, wordsOf_nib, hrs]
  · simpa using initStep1_go h

end Sys2Proof.Machine
end

section
/-! PROOFS. The Transmission Engine of 41_transmission.md: the events, the lengths and the sleeps of its macros (R160 to
R164), the requests `command` and `write` (R165, R166), and where it transfers nothing: a nibble outside the negotiation
(R162, R130), and any line before the first `begin` (D13). -/

namespace Sys2Proof.Machine

/-! ### The events of the macros (R160 to R163) -/

theorem highNibble_eq_setWidth (b : Byte) : highNibble b = (b >>> 4).setWidth 4 :=
  BitVec.setWidth_ushiftRight_eq_extractLsb.symm

theorem lowNibble_eq_setWidth (b : Byte) : lowNibble b = (b &&& 0x0F#8).setWidth 4 := by
  have hmask : (0x0F#8).setWidth 4 = BitVec.allOnes 4 := rfl
  rw [BitVec.setWidth_and, hmask, BitVec.and_allOnes]
  exact (BitVec.setWidth_eq_extractLsb' (by decide)).symm

theorem events_rwLow (hasRw : Bool) :
    (rwLowOps hasRw).map BusOp.event = if hasRw then [.w .rw .low] else [] := by
  cases hasRw <;> rfl

/-- Settles O18: the lists are those events by definition; a SEND in W4 splits its byte by shift and mask. -/
theorem macroEventSequences : Obligations.MacroEventSequences := by
  refine ⟨rfl, fun b => rfl, fun n => rfl, fun b rs hasRw => ⟨?_, ?_⟩⟩
  · rw [sendOps, List.map_cons, List.map_append, events_rwLow]
    rfl
  · rw [sendOps, List.map_cons, List.map_append, List.map_append, events_rwLow, ← highNibble_eq_setWidth,
      ← lowNibble_eq_setWidth, List.append_assoc]
    rfl

/-! ### Event counts, sleeps and latches of the macros (R164) -/

@[simp] theorem requestedSleep_pulse : requestedSleep (pulseOps.map BusOp.event) = 102 := rfl

@[simp] theorem requestedSleep_nib (n : Nibble) : requestedSleep ((nibOps n).map BusOp.event) = 102 := rfl

@[simp] theorem requestedSleep_byte8 (b : Byte) : requestedSleep ((byte8Ops b).map BusOp.event) = 102 := rfl

@[simp] theorem requestedSleep_rwLow (hasRw : Bool) : requestedSleep ((rwLowOps hasRw).map BusOp.event) = 0 := by
  cases hasRw <;> rfl

/-- A SEND sleeps in its pulses only: one in W8, two in W4. -/
theorem requestedSleep_send (w : BusWidth) (hasRw : Bool) (b : Byte) (rs : Level) :
    requestedSleep ((sendOps w hasRw b rs).map BusOp.event) = if w = .w4 then 204 else 102 := by
  cases w <;> simp [sendOps, BusOp.event, requestedSleep]

/-- In W4 a SEND latches the high nibble and then the low one. -/
theorem latches_send_w4 (hasRw : Bool) (b : Byte) (rs : Level) (v : Levels) :
    (latches v ((sendOps .w4 hasRw b rs).map BusOp.event)).map Latch.nibble = [highNibble b, lowNibble b] := by
  rw [latches, sendOps, ← List.cons_append, List.map_append, latchesFrom_select, List.map_append, latchesFrom_nib,
    latchesFrom_nib_last]
  simp only [List.map_cons, List.map_nil, ← BitVec.getLsbD_eq_getElem, Latch.nibble_of_lvl]

/-- In W8 a SEND latches its byte. -/
theorem latches_send_w8 (hasRw : Bool) (b : Byte) (rs : Level) (v : Levels) :
    (latches v ((sendOps .w8 hasRw b rs).map BusOp.event)).map Latch.byte = [b] := by
  have h := congrArg (List.map Prod.snd) (sendDeliversItsByte .w8 hasRw b rs v)
  simpa [delivered, Function.comp_def] using h

/-- Settles O19: the lengths are counted on the lists, the sleeps and the latches are those of the macros they hold. -/
theorem macroCounts : Obligations.MacroCounts := by
  refine ⟨⟨rfl, requestedSleep_pulse⟩, fun n => ⟨rfl, requestedSleep_nib n⟩, fun b => ⟨rfl, requestedSleep_byte8 b⟩,
    fun b rs => ⟨rfl, rfl, rfl, rfl, fun rw => ⟨?_, ?_⟩⟩, fun v rw rs => ⟨?_, ?_⟩⟩
  · exact requestedSleep_send .w8 rw b rs
  · exact requestedSleep_send .w4 rw b rs
  · exact latches_send_w4 rw 0xA5#8 rs v
  · exact latches_send_w8 rw 0xA5#8 rs v

/-! ### `command` and `write` (R165, R166) -/

/-- A SEND performed from the start of a request is the list of its transfers (R163). -/
theorem sendByte_setPos (b : Byte) (rs : Level) (s : State) :
    sendByte b rs (s.setPos 0) = runOps (sendOps s.busWidth s.hasRw b rs) (s.setPos 0) := rfl

/-- Settles O21: `command` is admission and then the one SEND with RS Low. -/
theorem commandSendsByteWithRsLow : Obligations.CommandSendsByteWithRsLow := fun b s =>
  answersAt_of_serve (i := .command b) rfl (sendByte_setPos b .low s) rfl rfl

/-- Settles O22: `write` is admission and then the one SEND with RS High. -/
theorem writeSendsByteWithRsHigh : Obligations.WriteSendsByteWithRsHigh := fun b s =>
  answersAt_of_serve (i := .write b) rfl (sendByte_setPos b .high s) rfl rfl

/-! ### Where nothing is transferred (R130, R162, D13; log 4) -/

/-- An engine that is alive and not Faulted refuses a nibble that it has no N4 transfer for, by name. -/
theorem execNibble_of_refusal (i : Instr) (n : Nibble) {s : State} {r : Refusal} (ha : s.alive = true)
    (hp : s.phase ≠ .faulted) (hr : s.nibbleRefusal = some r) : execNibble i n s = .refused r := by
  simp [execNibble, State.nibbleError, ha, hp, hr]

theorem State.nibbleRefusal_of_w8 {s : State} (hw : s.busWidth = .w8) : s.nibbleRefusal = some .nibbleOnByteBus := by
  rw [State.nibbleRefusal, hw]

theorem State.nibbleRefusal_of_w4 {s : State} (hw : s.busWidth = .w4)
    (h : s.phase ≠ .forcedIdle ∨ s.levels.get .rs = .high) :
    s.nibbleRefusal = some .nibbleOutsideNegotiation := by
  have hn : s.negotiating = false := by
    rcases h with hp | hrs
    · simp [State.negotiating, hp]
    · simp [State.negotiating, hrs]
  simp [State.nibbleRefusal, hw, hn]

/-- An instruction that completes is `begin`, or runs in a phase that sends. -/
theorem Body.begin_or_sends {s u : State} {i : Instr} {ops : List BusOp} (h : Body s i u ops) :
    (∃ columns lines m, i = .beginInit columns lines m) ∨ s.phase = .ready ∨ s.phase = .forcedIdle := by
  rcases h.begin_or_flagWrite with ⟨columns, lines, m, hi, -⟩ | ⟨-, hp⟩
  · exact .inl ⟨columns, lines, m, hi⟩
  · exact .inr hp

/-- An instruction that is cut short is `begin`, or runs in a phase that sends. -/
theorem Cut.begin_or_sends {s u : State} {i : Instr} {done : List BusOp} {l : Line} {v : Level}
    (h : Cut s i u done l v) :
    (∃ columns lines m, i = .beginInit columns lines m) ∨ s.phase = .ready ∨ s.phase = .forcedIdle := by
  cases h with
  | request _ _ _ _ hp => exact .inr (.inl hp)
  | nibble0011 _ hn | nibble0010 _ hn => exact .inr (.inr (of_decide_eq_true hn).1)
  | begin columns lines m => exact .inl ⟨columns, lines, m, rfl⟩

/-- In a phase that sends nothing, no instruction but `begin` drives a line (D13). -/
theorem exec_drives_no_line {i : Instr} {s t : State} (hb : ∀ columns lines m, i ≠ .beginInit columns lines m)
    (hp : ¬ (s.phase = .ready ∨ s.phase = .forcedIdle)) (h : exec i s = .next t) :
    ∃ evs, t.trace = s.trace ++ evs ∧ ∀ l v, .w l v ∉ evs ∧ .wBang l v ∉ evs := by
  have hsends : ¬ ((∃ columns lines m, i = .beginInit columns lines m) ∨ s.phase = .ready ∨ s.phase = .forcedIdle) :=
    not_or.mpr ⟨fun ⟨columns, lines, m, hi⟩ => hb columns lines m hi, hp⟩
  rcases exec_cases h with ⟨e, -, rfl⟩ | ⟨-, u, ops, hbody, -⟩ | ⟨-, u, done, l, v, left, hcut, -⟩ | ⟨rfl, -, rfl⟩ |
    ⟨d, rfl, -, rfl⟩ | ⟨d, pre, l, id, post, rfl, -, rfl⟩
  · exact ⟨[], by simp, by simp⟩
  · exact absurd hbody.begin_or_sends hsends
  · exact absurd hcut.begin_or_sends hsends
  · exact ⟨_, rfl, by simp⟩
  · exact ⟨_, rfl, by simp⟩
  · exact ⟨pre.map (fun p => .q p.1) ++ [.qBang l] ++ pre.reverse.map (fun p => .x p.1), by simp, by simp⟩

/-- Settles O25: both nibbles are `execNibble`, refused for the engine's bus or its phase; PoweredUnknown is no phase that
sends. -/
theorem nibblesStopOutsideNegotiation : Obligations.NibblesStopOutsideNegotiation := by
  refine ⟨fun s ha hp => ⟨fun hw => ?_, fun hw h => ?_⟩, fun i s t hp hb h => ?_⟩
  · have hr := State.nibbleRefusal_of_w8 hw
    exact ⟨execNibble_of_refusal _ nib8 ha hp hr, execNibble_of_refusal _ nib4 ha hp hr⟩
  · have hr := State.nibbleRefusal_of_w4 hw h
    exact ⟨execNibble_of_refusal _ nib8 ha hp hr, execNibble_of_refusal _ nib4 ha hp hr⟩
  · exact exec_drives_no_line hb (by simp [hp]) h

end Sys2Proof.Machine
end

section
/-! PROOFS. The Initialization Sequencer of 42_init_sequencer.md. The list of transfers of `begin` (its words, its length,
its sleeps), the two ways `begin` ends on an engine that is alive, and what each of its steps does alone. -/

namespace Sys2Proof.Machine

/-! ### The transfers of begin (R202 to R209) -/

/-- The list of transfers of `begin` in W4, written out (R202, R203, R205 to R208). -/
theorem beginOps_w4 {s : State} (hw : s.busWidth = .w4) : beginOps s =
    forcedIdleOps s.hasRw ++ nibOps 3#4 ++ [.sleep 45000] ++ nibOps 3#4 ++ [.sleep 4500] ++ nibOps 3#4 ++
      [.sleep 150] ++ nibOps 2#4 ++ s.sendOps s.fs .low ++ s.sendOps 0x0C#8 .low ++ s.sendOps 0x01#8 .low ++
      [.sleep 2000] ++ s.sendOps 0x06#8 .low := by
  have hn : s.negotiateOps = negotiateOps4 := by rw [State.negotiateOps, hw]
  simp only [beginOps, beginOpsFunction, beginOpsDisplay, beginOpsEntry, hn, negotiateOps4, List.append_assoc]
  rfl

/-- The list of transfers of `begin` in W8, written out (R202, R204 to R208). -/
theorem beginOps_w8 {s : State} (hw : s.busWidth = .w8) : beginOps s =
    forcedIdleOps s.hasRw ++ s.sendOps s.fs .low ++ [.sleep 4500] ++ s.sendOps s.fs .low ++ [.sleep 150] ++
      s.sendOps s.fs .low ++ s.sendOps s.fs .low ++ s.sendOps 0x0C#8 .low ++ s.sendOps 0x01#8 .low ++
      [.sleep 2000] ++ s.sendOps 0x06#8 .low := by
  have hn : s.negotiateOps = negotiateOps8 s := by rw [State.negotiateOps, hw]
  simp only [beginOps, beginOpsFunction, beginOpsDisplay, beginOpsEntry, hn, negotiateOps8, List.append_assoc]
  rfl

/-! ### What a decoder reads of them (R92) -/

/-- Step 1 latches nothing: E only goes Low. -/
theorem latchesFrom_forcedIdle (hasRw : Bool) (v : Levels) (rest : List Event) :
    latchesFrom v none ((forcedIdleOps hasRw).map BusOp.event ++ rest) =
      latchesFrom (driven (forcedIdleOps hasRw) v) none rest := by
  cases hasRw <;> simp [forcedIdleOps, rwLowOps, BusOp.event, driven]

/-- A NIB among the single nibbles of a trace is read as its nibble, with RS as it stands. -/
theorem wordsOf_nib_append (k : Nat) (v : Levels) (n : Nibble) (rest : List Event) :
    wordsOf .w4 (k + 1) (latchesFrom v none ((nibOps n).map BusOp.event ++ rest)) =
      .nibble v.rs n :: wordsOf .w4 k (latchesFrom (driven (nibOps n) v) none rest) := by
  rw [latchesFrom_nib]
  simp only [wordsOf, List.take_succ_cons, List.drop_succ_cons, List.map_cons, Latch.nibble_of_lvl, List.cons_append]

/-- A SEND after the single nibbles of a trace is read as its byte, with its RS level. -/
theorem wordsOf_send_append (w : BusWidth) (hasRw : Bool) (b : Byte) (rs : Level) (v : Levels) (rest : List Event) :
    wordsOf w 0 (latchesFrom v none ((sendOps w hasRw b rs).map BusOp.event ++ rest)) =
      .byte rs b :: wordsOf w 0 (latchesFrom (driven (sendOps w hasRw b rs) v) none rest) := by
  simp only [wordsOf_zero, delivered_send, List.map_cons]

@[simp] theorem wordsOf_nil (w : BusWidth) (k : Nat) : wordsOf w k [] = [] := by
  cases w <;> simp [wordsOf, pairNibbles]

/-- The words of `begin` in W4: the four negotiation nibbles, then bytes. -/
theorem wordsOf_begin_w4 {s : State} (hw : s.busWidth = .w4) (v : Levels) :
    wordsOf .w4 4 (latches v ((beginOps s).map BusOp.event)) =
      [.nibble .low 3#4, .nibble .low 3#4, .nibble .low 3#4, .nibble .low 2#4, .byte .low s.fs,
        .byte .low 0x0C#8, .byte .low 0x01#8, .byte .low 0x06#8] := by
  have hrs : (driven (forcedIdleOps s.hasRw) v).rs = .low := driven_forcedIdle_rs s.hasRw v
  rw [beginOps_w4 hw]
  simp only [State.sendOps, hw, latches, List.map_append, List.append_assoc, latchesFrom_forcedIdle, wordsOf_nib_append,
    List.map_cons, BusOp.event, List.cons_append, List.nil_append, latchesFrom_s, driven_nib_rs, hrs,
    wordsOf_send_append]
  rw [← List.append_nil (List.map _ _), wordsOf_send_append, latchesFrom_nil, wordsOf_nil]

/-- The words of `begin` in W8: bytes only. -/
theorem wordsOf_begin_w8 {s : State} (hw : s.busWidth = .w8) (v : Levels) :
    wordsOf .w8 0 (latches v ((beginOps s).map BusOp.event)) =
      [.byte .low s.fs, .byte .low s.fs, .byte .low s.fs, .byte .low s.fs, .byte .low 0x0C#8, .byte .low 0x01#8,
        .byte .low 0x06#8] := by
  rw [beginOps_w8 hw]
  simp only [State.sendOps, hw, latches, List.map_append, List.append_assoc, latchesFrom_forcedIdle,
    List.map_cons, BusOp.event, List.cons_append, List.nil_append, latchesFrom_s, wordsOf_send_append]
  rw [← List.append_nil (List.map _ _), wordsOf_send_append, latchesFrom_nil, wordsOf_nil]

/-- Settles O27: the lists are `beginOps_w4` and `beginOps_w8`, the words are read off them one transfer at a time. -/
theorem beginEventsAreThoseOfItsSteps : Obligations.BeginEventsAreThoseOfItsSteps := by
  refine fun s => ⟨beginOps_w4, beginOps_w8, fun columns lines m v => ?_⟩
  cases hw : s.busWidth with
  | w4 => exact wordsOf_begin_w4 hw v
  | w8 => exact wordsOf_begin_w8 hw v

/-! ### Its length and its sleeps (R213) -/

theorem length_send (w : BusWidth) (hasRw : Bool) (b : Byte) (rs : Level) :
    (sendOps w hasRw b rs).length = (if w = .w4 then 21 else 15) + hasRw.toNat := by
  cases w <;> cases hasRw <;> rfl

theorem length_forcedIdle (hasRw : Bool) : (forcedIdleOps hasRw).length = 3 + hasRw.toNat := by
  cases hasRw <;> rfl

theorem length_nib (n : Nibble) : (nibOps n).length = 10 := rfl

theorem length_begin (s : State) : (beginOps s).length =
    match s.busWidth with
    | .w4 => 131 + 5 * s.hasRw.toNat
    | .w8 => 111 + 8 * s.hasRw.toNat := by
  cases hw : s.busWidth with
  | w4 =>
    simp only [beginOps_w4 hw, State.sendOps, hw, List.length_append, length_send, length_forcedIdle, length_nib,
      List.length_singleton, if_pos]
    omega
  | w8 =>
    simp only [beginOps_w8 hw, State.sendOps, hw, List.length_append, length_send, length_forcedIdle,
      List.length_singleton, reduceCtorEq, if_false]
    omega

theorem requestedSleep_forcedIdle (hasRw : Bool) :
    requestedSleep ((forcedIdleOps hasRw).map BusOp.event) = 50000 := by
  cases hasRw <;> rfl

theorem requestedSleep_begin (s : State) : requestedSleep ((beginOps s).map BusOp.event) =
    match s.busWidth with
    | .w4 => 102874
    | .w8 => 57364 := by
  cases hw : s.busWidth with
  | w4 => simp [beginOps_w4 hw, State.sendOps, hw, requestedSleep_send, requestedSleep_forcedIdle, requestedSleep,
      BusOp.event]
  | w8 => simp [beginOps_w8 hw, State.sendOps, hw, requestedSleep_send, requestedSleep_forcedIdle, requestedSleep,
      BusOp.event]

/-! ### The two ways begin ends on an engine that is alive (R209, R211) -/

section Ends
variable (columns lines : Nat) (m : Matrix) {s : State}

theorem exec_begin_of_alive (ha : s.alive = true) : exec (.beginInit columns lines m) s =
    .next (initSequence columns lines m (s.setPos 0)).close := by
  have hal : s.aliveError (.beginInit columns lines m) = none := by simp [State.aliveError, ha]
  simp only [exec, execBeginInit, hal, State.serve_none]

theorem exec_begin_granted (ha : s.alive = true)
    (hg : s.grants (countWrites (beginOps (initStep0 columns lines m s)))) :
    exec (.beginInit columns lines m) s =
      .next ((beginDone (initStep0 columns lines m s)).completed (beginOps (initStep0 columns lines m s))) := by
  rw [exec_begin_of_alive columns lines m ha, initSequence_granted columns lines m s _ rfl hg]

theorem exec_begin_refused {u : State} {before seg done rest : List BusOp} {l : Line} {v left : Level}
    (ha : s.alive = true) (hs : BeginSegment (initStep0 columns lines m s) u before seg)
    (hseg : seg = done ++ .write l v :: rest) (hr : s.refusesAt (countWrites (before ++ done)) left) :
    exec (.beginInit columns lines m) s = .next (u.failedAt (before ++ done) l v left) := by
  rw [exec_begin_of_alive columns lines m ha,
    initSequence_refused columns lines m s _ u before seg done rest l v left rfl hs hseg hr]

end Ends

/-- Settles O29: a granted `begin` performs `beginOps`, whose length and sleep are counted above. -/
theorem beginTotals : Obligations.BeginTotals := by
  intro columns lines m s t ha hg h
  cases h.symm.trans (exec_begin_granted columns lines m ha hg)
  refine ⟨_, rfl, ?_, requestedSleep_begin _⟩
  rw [List.length_map, length_begin, initStep0_busWidth, initStep0_hasRw]
  cases s.busWidth <;> cases s.hasRw <;> rfl

/-- Settles O28: the three clauses are the three segments of `BeginSegment`, with the flags written before each. -/
theorem beginFailureKeepsEarlierWrites : Obligations.BeginFailureKeepsEarlierWrites := by
  rintro columns lines m s _ done rest l v left ha rfl
  refine ⟨fun hseg hr => ⟨_, ?_, State.agrees_refl _⟩, fun hseg hr => ⟨_, ?_, State.agrees_refl _⟩,
    fun hseg hr => ⟨_, ?_, State.agrees_refl _⟩⟩
  · exact exec_begin_refused columns lines m ha .function hseg hr
  · exact exec_begin_refused columns lines m ha .display hseg hr
  · exact exec_begin_refused columns lines m ha .entry hseg hr

/-! ### Each step alone (R212) -/

/-- `u` is `s` as far as a run of transfers sees it: the same trace, position and answers ahead. -/
structure SameRun (s u : State) : Prop where
  trace : u.trace = s.trace
  pos : u.pos = s.pos
  answers : u.answers = s.answers
  draws : u.draws = s.draws

/-- Transfers that go on leave the phase, so they may be said to set it. -/
theorem runOps_andThen_setPhase_self (ops : List BusOp) (s : State) :
    (runOps ops s).andThen (fun t => .go (t.setPhase s.phase)) = runOps ops s := by
  have h : runOps ops s = _ := runOps_setPhase s.phase ops s
  rw [h]
  cases runOps ops s <;> rfl

/-- `f`, in state `s`, performs `ops` and then moves the phase to `p`, from a state that shows the same run as `s`. -/
def PerformsThenMoves (f : State → Flow) (p : Phase) (ops : List BusOp) (s : State) : Prop :=
  ∃ u, SameRun s u ∧ f s = (runOps ops u).andThen fun t => .go (t.setPhase p)

section Moves
variable {f : State → Flow} {p : Phase} {ops : List BusOp} {s : State}

theorem PerformsThenMoves.granted (h : PerformsThenMoves f p ops s) (hg : s.grants (countWrites ops)) :
    ∃ t, f s = .go t ∧ t.phase = p ∧ t.trace = s.trace ++ ops.map BusOp.event := by
  obtain ⟨u, hu, hf⟩ := h
  rw [runOps_granted ops u (grants_congr hu.answers hu.draws hg)] at hf
  exact ⟨_, hf, rfl, by simp [hu.trace]⟩

theorem PerformsThenMoves.refused (h : PerformsThenMoves f p ops s) {done rest : List BusOp} {l : Line}
    {v left : Level} (hops : ops = done ++ .write l v :: rest) (hr : s.refusesAt (countWrites done) left) :
    ∃ t, f s = .raised (.lineWrite l v (s.pos + done.length)) t ∧ t.phase = .faulted := by
  obtain ⟨u, hu, hf⟩ := h
  rw [hops, runOps_refused done l v left rest u (refusesAt_congr hu.answers hu.draws hr), State.raiseLineWrite] at hf
  exact ⟨_, by simpa [hu.pos] using hf, rfl⟩

end Moves

/-- Step 4a sends DisplayControl 0x0C, step 5 EntryModeSet 0x06, whatever the flags were (R206, R208). -/
theorem resendDc_displayFlags (s : State) : (initDisplayFlags s).resendDc = s.sendOps 0x0C#8 .low :=
  have hdc : dcByte true false false = 0x0C#8 := by decide
  congrArg (s.sendOps · .low) hdc

theorem resendEm_entryFlags (s : State) : (initEntryFlags s).resendEm = s.sendOps 0x06#8 .low :=
  have hem : emByte true false = 0x06#8 := by decide
  congrArg (s.sendOps · .low) hem

/-- Steps 1 to 3 and 4b write no field before they send; step 4a writes the display flags and moves no phase; step 5
writes the entry flags. -/
theorem initStep_performsThenMoves (s : State) :
    PerformsThenMoves initStep1 .forcedIdle (forcedIdleOps s.hasRw) s ∧
    PerformsThenMoves initStep2 .busWidthNegotiated s.negotiateOps s ∧
    PerformsThenMoves initStep3 .functionConfigured (s.sendOps s.fs .low) s ∧
    PerformsThenMoves initStep4a s.phase (s.sendOps 0x0C#8 .low) s ∧
    PerformsThenMoves initStep4b .displayOnCleared (s.sendOps 0x01#8 .low ++ [.sleep 2000]) s ∧
    PerformsThenMoves initStep5 .ready (s.sendOps 0x06#8 .low) s := by
  have hself : SameRun s s := ⟨rfl, rfl, rfl, rfl⟩
  refine ⟨⟨s, hself, rfl⟩, ⟨s, hself, rfl⟩, ⟨s, hself, rfl⟩, ⟨initDisplayFlags s, ⟨rfl, rfl, rfl, rfl⟩, ?_⟩,
    ⟨s, hself, rfl⟩, ⟨initEntryFlags s, ⟨rfl, rfl, rfl, rfl⟩, ?_⟩⟩
  · rw [initStep4a, mutateThenSend, resendDc_displayFlags]
    exact (runOps_andThen_setPhase_self _ (initDisplayFlags s)).symm
  · rw [initStep5, mutateThenSend, resendEm_entryFlags]

/-- Settles O30: `begin` is its steps by definition, and each step performs its own events and then moves the phase. -/
theorem sequencerPassesItsPhasesInOrder : Obligations.SequencerPassesItsPhasesInOrder := by
  refine ⟨fun columns lines m s ha => exec_begin_of_alive columns lines m ha, fun s =>
    ⟨fun columns lines m => ⟨rfl, rfl⟩, fun f p ops hf => ?_⟩⟩
  have hmoves : PerformsThenMoves f p ops s := by
    obtain ⟨h1, h2, h3, h4a, h4b, h5⟩ := initStep_performsThenMoves s
    rcases hf with ⟨rfl, rfl, rfl⟩ | ⟨rfl, rfl, rfl⟩ | ⟨rfl, rfl, rfl⟩ | ⟨rfl, rfl, rfl⟩ | ⟨rfl, rfl, rfl⟩ |
      ⟨rfl, rfl, rfl⟩
    · exact h1
    · exact h2
    · exact h3
    · exact h4a
    · exact h4b
    · exact h5
  exact ⟨hmoves.granted, fun done l v rest left hops hr => hmoves.refused hops hr⟩

/-! ### Two engines (R210) -/

section Two
variable {columns lines : Nat} {m : Matrix} {s s' : State}

/-- The transfers of `begin`, segment by segment, are those of the bus width, the RW line and the arguments. -/
theorem beginOps_segments_congr (columns lines : Nat) (m : Matrix) (hw : s.busWidth = s'.busWidth)
    (hr : s.hasRw = s'.hasRw) :
    beginOpsFunction (initStep0 columns lines m s) = beginOpsFunction (initStep0 columns lines m s') ∧
    beginOpsDisplay (initStep0 columns lines m s) = beginOpsDisplay (initStep0 columns lines m s') ∧
    beginOpsEntry (initStep0 columns lines m s) = beginOpsEntry (initStep0 columns lines m s') := by
  have hsend : ∀ b rs, (initStep0 columns lines m s).sendOps b rs = (initStep0 columns lines m s').sendOps b rs :=
    sendOps_congr hw hr
  have hfs : (initStep0 columns lines m s).fs = (initStep0 columns lines m s').fs := fs_congr hw rfl rfl
  have hneg : (initStep0 columns lines m s).negotiateOps = (initStep0 columns lines m s').negotiateOps :=
    negotiateOps_congr hw hr rfl rfl
  simp only [beginOpsFunction, beginOpsDisplay, beginOpsEntry, hsend, hfs, hneg, initStep0_hasRw, hr, and_self]

/-- What one engine performs in a segment of `begin`, an engine with the same lines performs too. -/
theorem BeginSegment.transport {u : State} {before seg : List BusOp} (hw : s.busWidth = s'.busWidth)
    (hr : s.hasRw = s'.hasRw) (h : BeginSegment (initStep0 columns lines m s) u before seg) :
    ∃ u', BeginSegment (initStep0 columns lines m s') u' before seg := by
  obtain ⟨hfunction, hdisplay, hentry⟩ := beginOps_segments_congr columns lines m hw hr
  cases h with
  | function =>
    rw [hfunction]
    exact ⟨_, .function⟩
  | display =>
    rw [hfunction, hdisplay]
    exact ⟨_, .display⟩
  | entry =>
    rw [hfunction, hdisplay, hentry]
    exact ⟨_, .entry⟩

/-- Two engines with the same lines and the same answers end `begin` in the same one of its two ways, with the same events
and the same return; if it succeeds, with the same flags. -/
theorem begin_ends_alike (columns lines : Nat) (m : Matrix) (ha : s.alive = true) (ha' : s'.alive = true)
    (hw : s.busWidth = s'.busWidth) (hrw : s.hasRw = s'.hasRw) (hans : s.answers = s'.answers)
    (hdraws : s.draws = s'.draws) :
    ∃ t t' evs r, exec (.beginInit columns lines m) s = .next t ∧ exec (.beginInit columns lines m) s' = .next t' ∧
      t.trace = s.trace ++ evs ∧ t'.trace = s'.trace ++ evs ∧
      t.returns = s.returns ++ [r] ∧ t'.returns = s'.returns ++ [r] ∧ t.phase = t'.phase ∧
      (r = .ok → t.displayOn = t'.displayOn ∧ t.cursorOn = t'.cursorOn ∧ t.blinkOn = t'.blinkOn ∧
        t.entryLtr = t'.entryLtr ∧ t.entryShift = t'.entryShift) := by
  rcases begin_cases columns lines m s _ rfl with ⟨hdead, -⟩ | ⟨-, hg, he⟩ |
    ⟨-, u, before, seg, done, rest, l, v, left, hs, hseg, hr, he⟩
  · simp [ha] at hdead
  · obtain ⟨hfunction, hdisplay, hentry⟩ := beginOps_segments_congr columns lines m hw hrw
    have hops : beginOps (initStep0 columns lines m s) = beginOps (initStep0 columns lines m s') := by
      rw [beginOps, beginOps, hfunction, hdisplay, hentry]
    rw [hops] at hg he
    have he' := exec_begin_granted columns lines m ha' (grants_congr hans.symm hdraws.symm hg)
    exact ⟨_, _, (beginOps (initStep0 columns lines m s')).map BusOp.event, .ok, he, he', rfl, rfl, rfl, rfl, rfl,
      fun _ => ⟨rfl, rfl, rfl, rfl, rfl⟩⟩
  · obtain ⟨u', hs'⟩ := hs.transport hw hrw
    have he' := exec_begin_refused columns lines m ha' hs' hseg (refusesAt_congr hans.symm hdraws.symm hr)
    refine ⟨_, _, (before ++ done).map BusOp.event ++ [.wBang l v], .err (.lineWrite l v (before ++ done).length),
      he, he', ?_, ?_, ?_, ?_, rfl, nofun⟩
    · simp [hs.same.trace]
    · simp [hs'.same.trace]
    · simp [hs.same.returns]
    · simp [hs'.same.returns]

end Two

/-- Settles O31: two such engines end `begin` alike, and its arguments alone give the configuration. -/
theorem beginForgetsThePast : Obligations.BeginForgetsThePast := by
  intro columns lines m s s' ha ha' hw hrw hans hdraws
  obtain ⟨t, t', evs, r, he, he', htrace, htrace', hret, hret', hphase, hflags⟩ :=
    begin_ends_alike columns lines m ha ha' hw hrw hans hdraws
  have hwidth := (exec_wiring_of_not_construct (by simp) he).busWidth
  have hconfig := begin_configures ha he
  have hconfig' := begin_configures ha' he'
  exact ⟨t, t', evs, r, he, he', htrace, htrace', hret, hret', hphase,
    hconfig.lineCount.trans hconfig'.lineCount.symm, hconfig.matrix.trans hconfig'.matrix.symm,
    hconfig.rowOffsets.trans hconfig'.rowOffsets.symm, hwidth, hflags⟩

end Sys2Proof.Machine
end

section
/-! PROOFS. The display requests of 43_display_requests.md. Most of them write at most one field and send one byte
(`SendsOneByte`): `set_cursor` (R241), the setters (R245 to R254) and the scrolls (R255, R256). The others send a settle
or data bytes after it (R242 to R244, R257). Then what the controller receives from all of them (R240). -/

namespace Sys2Proof.Machine

/-! ### What a request answers, from its field write and its transfers -/

theorem answersAt_of_request {i : Instr} {s m : State} {ops : List BusOp} (hr : needsReady i = true)
    (hw : i.wellFormed = true) (hf : fieldsSet i s) (hm : flagWrite i s = m) (hops : requestOps i m = ops) :
    AnswersAt s i m ops := by
  subst hm hops
  exact answersAt_request hr hw hf

/-- Request `i`, in state `s`, is of the Ready class; it writes its field, which gives `m`, and then sends byte `b` with RS
at `rs`. -/
structure SendsOneByte (i : Instr) (s m : State) (rs : Level) (b : Byte) : Prop where
  ready : needsReady i = true
  wellFormed : i.wellFormed = true
  fields : fieldsSet i s
  mutation : flagWrite i s = m
  word : busWords i m = [(rs, b)]
  settle : settleOps i = []

/-- The engine it sends with is that of `s`: no field write touches the bus width or the RW line. -/
theorem SendsOneByte.answersAt {i : Instr} {s m : State} {rs : Level} {b : Byte} (h : SendsOneByte i s m rs b) :
    AnswersAt s i m (sendOps s.busWidth s.hasRw b rs) := by
  obtain ⟨hready, hwf, hfields, rfl, hword, hsettle⟩ := h
  refine answersAt_of_request hready hwf hfields rfl ((requestOps_of_single hword hsettle).trans ?_)
  rw [State.sendOps, flagWrite_busWidth, flagWrite_hasRw]

/-! ### `set_cursor` (R241) -/

theorem cursorAddress_of_set {s : State} {n : LineCount} {t : RowOffsets} (hn : s.lineCount = some n)
    (ht : s.rowOffsets = some t) (col row : Nat) :
    s.cursorAddress col row = some (t.get (clampIndex row n) + col) := by
  rw [State.cursorAddress, hn, ht]

theorem setCursor_sendsOneByte {s : State} {n : LineCount} {t : RowOffsets} (hn : s.lineCount = some n)
    (ht : s.rowOffsets = some t) (col row : Nat) :
    SendsOneByte (.setCursor col row) s s .low (ddByte (t.get (clampIndex row n) + col)) where
  ready := rfl
  wellFormed := rfl
  fields := ⟨by rw [hn]; rfl, by rw [ht]; rfl⟩
  mutation := rfl
  word := by rw [busWords, cursorAddress_of_set hn ht]
  settle := rfl

/-- The row-offset table as a list (R32). -/
theorem RowOffsets.get_eq_getD (t : RowOffsets) (r : Fin 4) : t.get r = [t.r0, t.r1, t.r2, t.r3].getD r 0 := by
  match r with
  | 0 | 1 | 2 | 3 => rfl

theorem clampIndex_val (row : Nat) (n : LineCount) :
    (clampIndex row n : Nat) = min (min row (4 - 1)) ((if n = .two then 2 else 1) - 1) := by
  cases n <;> rfl

/-- Settles O32: the one byte is DD of the table's entry at the clamped row. -/
theorem setCursorAddressesTheClampedRow : Obligations.SetCursorAddressesTheClampedRow := by
  intro col row s n t hn ht
  have hans := (setCursor_sendsOneByte hn ht col row).answersAt
  rwa [ddByte, RowOffsets.get_eq_getD, clampIndex_val] at hans

theorem ddByte_eq_ofNat (a : Nat) : ddByte a = BitVec.ofNat 8 (128 + a % 128) := by
  apply BitVec.eq_of_toNat_eq
  rw [ddByte_toNat, BitVec.toNat_ofNat]
  omega

/-- Of the table that `begin` writes the clamp leaves the first entry, and with two lines the second (R32, R201). -/
theorem ofColumns_get_clampIndex (columns row : Nat) (n : LineCount) :
    (RowOffsets.ofColumns columns).get (clampIndex row n) = if n = .two ∧ row ≠ 0 then 0x40 else 0 := by
  rw [RowOffsets.get_eq_getD, clampIndex_val]
  cases n with
  | one => simp [RowOffsets.ofColumns]
  | two =>
    cases row with
    | zero => rfl
    | succ r => simp [RowOffsets.ofColumns]

/-- Settles O33: a configured Ready engine has its fields set, and its offsets are those that `begin` writes. -/
theorem setCursorReachesTwoRows : Obligations.SetCursorReachesTwoRows := by
  intro col row s hcfg hp
  obtain ⟨hset, hoffsets⟩ := hcfg
  obtain ⟨hn, -, ht⟩ := hset hp
  obtain ⟨n, hn⟩ := Option.isSome_iff_exists.mp hn
  obtain ⟨t, ht⟩ := Option.isSome_iff_exists.mp ht
  have hans := (setCursor_sendsOneByte hn ht col row).answersAt
  rw [hoffsets t ht, ofColumns_get_clampIndex, ddByte_eq_ofNat, ite_add, Nat.zero_add] at hans
  simpa only [hn, Option.some_inj] using hans

/-! ### The setters and the scrolls (R245 to R256) -/

theorem State.dc_eq_ofNat (s : State) :
    s.dc = BitVec.ofNat 8 (0x08 + 4 * s.displayOn.toNat + 2 * s.cursorOn.toNat + s.blinkOn.toNat) := by
  rw [State.dc]
  cases s.displayOn <;> cases s.cursorOn <;> cases s.blinkOn <;> rfl

theorem State.em_eq_ofNat (s : State) :
    s.em = BitVec.ofNat 8 (0x04 + 2 * s.entryLtr.toNat + s.entryShift.toNat) := by
  rw [State.em]
  cases s.entryLtr <;> cases s.entryShift <;> rfl

/-- Settles O36: each of the six sends DC of the state after its flag write. -/
theorem displaySettersResendDisplayControl : Obligations.DisplaySettersResendDisplayControl := by
  intro i s m hi
  have hsend : SendsOneByte i s m .low m.dc := by
    rcases hi with ⟨rfl, rfl⟩ | ⟨rfl, rfl⟩ | ⟨rfl, rfl⟩ | ⟨rfl, rfl⟩ | ⟨rfl, rfl⟩ | ⟨rfl, rfl⟩ <;>
      exact ⟨rfl, rfl, trivial, rfl, rfl, rfl⟩
  rw [← State.dc_eq_ofNat]
  exact hsend.answersAt

/-- Settles O37: each of the four sends EM of the state after its flag write. -/
theorem entrySettersResendEntryMode : Obligations.EntrySettersResendEntryMode := by
  intro i s m hi
  have hsend : SendsOneByte i s m .low m.em := by
    rcases hi with ⟨rfl, rfl⟩ | ⟨rfl, rfl⟩ | ⟨rfl, rfl⟩ | ⟨rfl, rfl⟩ <;>
      exact ⟨rfl, rfl, trivial, rfl, rfl, rfl⟩
  rw [← State.em_eq_ofNat]
  exact hsend.answersAt

/-- Settles O38: each scroll sends SH of the display in its direction. -/
theorem scrollsSendTheDisplayShift : Obligations.ScrollsSendTheDisplayShift := by
  have hleft : shByte .display .left = 0x18#8 := by decide
  have hright : shByte .display .right = 0x1C#8 := by decide
  intro s
  rw [← hleft, ← hright]
  exact ⟨SendsOneByte.answersAt ⟨rfl, rfl, trivial, rfl, rfl, rfl⟩,
    SendsOneByte.answersAt ⟨rfl, rfl, trivial, rfl, rfl, rfl⟩⟩

/-! ### The settles and the data bytes (R242 to R244, R257) -/

/-- Settles O35: the one SEND of each, then the settle. -/
theorem clearAndHomeSettle : Obligations.ClearAndHomeSettle := by
  intro s
  have hclear : requestOps .clear s = s.sendOps 0x01#8 .low ++ [.sleep 2000] := by
    simp [requestOps, busWords, settleOps, clrByte, usClearHome]
  have hhome : requestOps .home s = s.sendOps 0x02#8 .low ++ [.sleep 2000] := by
    simp [requestOps, busWords, settleOps, homeByte, usClearHome]
  exact ⟨answersAt_of_request rfl rfl trivial rfl hclear, answersAt_of_request rfl rfl trivial rfl hhome⟩

theorem requestOps_print (text : List Byte) (s : State) :
    requestOps (.print text) s = s.sendAllOps text .high := by
  simp only [requestOps, busWords, settleOps, flatMap_data, List.append_nil]

/-- Settles O34: the words of `print` are its bytes with RS High. -/
theorem printSendsEachByteAsData : Obligations.PrintSendsEachByteAsData := fun text s =>
  answersAt_of_request rfl rfl trivial rfl (requestOps_print text s)

theorem requestOps_createChar (slot : Nat) (bitmap : List Byte) (s : State) :
    requestOps (.createChar slot bitmap) s = s.sendOps (cgByte slot) .low ++ s.sendAllOps bitmap .high := by
  simp only [requestOps, busWords, settleOps, List.flatMap_cons, flatMap_data, List.append_nil]

theorem cgByte_eq_ofNat (slot : Nat) : cgByte slot = BitVec.ofNat 8 (0x40 + 8 * (slot % 8)) := by
  have hslot : slot % 8 < 8 := Nat.mod_lt _ (by decide)
  rw [cgByte]
  interval_cases slot % 8 <;> rfl

/-- Settles O39: the slot's address, then the bitmap as data, one SEND for each of its eight bytes. -/
theorem createCharSendsSlotAndBitmap : Obligations.CreateCharSendsSlotAndBitmap := by
  intro slot b0 b1 b2 b3 b4 b5 b6 b7 s
  refine answersAt_of_request rfl rfl trivial rfl ?_
  rw [requestOps_createChar, cgByte_eq_ofNat]
  simp only [State.sendAllOps, State.sendOps, List.flatMap_cons, List.flatMap_nil, List.append_nil, List.append_assoc]

/-! ### What the controller receives (R69, R240) -/

/-- SENDs in order deliver their words in order, before whatever the rest of the trace delivers. -/
theorem delivered_sends (s : State) (ws : List (Level × Byte)) (v : Levels) (rest : List Event) :
    delivered s.busWidth (latchesFrom v none ((ws.flatMap fun w => s.sendOps w.2 w.1).map BusOp.event ++ rest)) =
      ws ++ delivered s.busWidth
        (latchesFrom (driven (ws.flatMap fun w => s.sendOps w.2 w.1) v) none rest) := by
  induction ws generalizing v with
  | nil => rfl
  | cons w ws ih =>
    simp only [List.flatMap_cons, List.map_append, List.append_assoc, State.sendOps, delivered_send, driven_append,
      List.cons_append]
    exact congrArg _ (ih _)

/-- A settle is a sleep, so it latches nothing. -/
theorem latchesFrom_settle (i : Instr) (v : Levels) : latchesFrom v none ((settleOps i).map BusOp.event) = [] := by
  cases i <;> rfl

@[simp] theorem delivered_nil (w : BusWidth) : delivered w [] = [] := by
  cases w <;> rfl

/-- The transfers of a request deliver the bus words of its rule. -/
theorem delivered_requestOps (i : Instr) (s : State) (v : Levels) :
    delivered s.busWidth (latches v ((requestOps i s).map BusOp.event)) = busWords i s := by
  rw [latches, requestOps, List.map_append, delivered_sends, latchesFrom_settle, delivered_nil, List.append_nil]

/-- Settles O43: a granted request performs its transfers, whose latches are `delivered_requestOps`. -/
theorem admittedRequestDeliversItsWords : Obligations.AdmittedRequestDeliversItsWords := by
  intro i s hr hw hf ha hp hg
  refine ⟨_, (requestOps i (flagWrite i s)).map BusOp.event, exec_of_ready hr hw hf ha hp, ?_⟩
  rw [close_runOps_granted (flagWrite_answers i s) (flagWrite_draws i s) hg]
  refine ⟨by simp, by simp, ?_⟩
  rw [← flagWrite_busWidth i s]
  exact delivered_requestOps i (flagWrite i s) s.levels

end Sys2Proof.Machine
end

section
/-! PROOFS. The errors of 60_exceptions.md: what an instruction answers that is not admitted (R304, R305), what a
LineWriteError leaves behind (R303), and that only `begin` leads out of it (R309). -/

namespace Sys2Proof.Machine

/-- Settles O11: the first branch of `step`. -/
theorem idleEngineStaysPut : Obligations.IdleEngineStaysPut := by
  intro s hp
  rw [step, hp]

/-! ### Instructions that are not admitted (R304, R305, R307, R309) -/

/-- An instruction of the Ready class that is not admitted returns its admission error and does nothing else; so does a
`set_cursor` whose fields are unset, since admission comes first. -/
theorem exec_of_not_admitted {i : Instr} {s : State} {e : Error} (hr : needsReady i = true) (hw : i.wellFormed = true)
    (he : s.admissionError i = some e) : exec i s = .next (s.respond (.err e)) := by
  by_cases hf : fieldsSet i s
  · obtain ⟨body, hexec, -⟩ := request_body i s hr hw hf
    rw [hexec, he, State.serve_some]
  · cases i with
    | setCursor col row =>
      rw [exec, execSetCursor, he]
      rfl
    | _ => exact absurd trivial hf

/-- Only `construct`, which makes another engine, answers anything but Dropped on an engine that is not alive. -/
theorem exec_of_not_alive {i : Instr} {s : State} (hc : ∀ d, i ≠ .construct d) (hw : i.wellFormed = true)
    (ha : s.alive = false) : exec i s = .next (s.respond (.err (.dropped i))) := by
  cases i with
  | construct d => exact absurd rfl (hc d)
  | drop | beginInit => simp [exec, execDrop, execBeginInit, State.aliveError, ha]
  | initNibble0011 | initNibble0010 => exact execNibble_of_not_alive _ _ ha
  | _ => exact exec_of_not_admitted rfl hw (State.admissionError_of_dropped _ ha)

/-- Settles O44: it is `exec_of_not_alive` for the calls. -/
theorem droppedChangesNothing : Obligations.DroppedChangesNothing :=
  fun _ _ _ hc hw ha => ⟨exec_of_not_alive hc hw ha, rfl⟩

/-- The calls but `construct`, `begin` and `drop` are of the Ready class (R304). -/
theorem needsReady_of_call {i : Instr} (he : encode i = none) (hc : ∀ d, i ≠ .construct d)
    (hb : ∀ c n m, i ≠ .beginInit c n m) (hd : i ≠ .drop) : needsReady i = true := by
  cases i with
  | construct d => exact absurd rfl (hc d)
  | beginInit c n m => exact absurd rfl (hb c n m)
  | drop => exact absurd rfl hd
  | initNibble0011 | initNibble0010 => cases he
  | _ => rfl

/-- Settles O45: these calls are of the Ready class, which checks that the engine is alive before its phase. -/
theorem notReadyChangesNothing : Obligations.NotReadyChangesNothing := by
  intro i s he hc hb hd hw
  have hr := needsReady_of_call he hc hb hd
  exact ⟨exec_of_not_alive hc hw,
    fun ha hp => exec_of_not_admitted hr hw (State.admissionError_of_notReady i ha hp), rfl⟩

/-- After a LineWriteError only `begin` and `drop` are accepted; `construct` makes another engine (R309). -/
theorem exec_of_faulted {i : Instr} {s : State} (ha : s.alive = true) (hp : s.phase = .faulted)
    (hw : i.wellFormed = true) (hc : ∀ d, i ≠ .construct d) (hb : ∀ c n m, i ≠ .beginInit c n m) (hd : i ≠ .drop) :
    exec i s = .next (s.respond (.err (.notReady i .faulted))) := by
  have hadm : s.admissionError i = some (.notReady i .faulted) := by
    rw [State.admissionError_of_notReady i ha (by simp [hp]), hp]
  cases i with
  | construct d => exact absurd rfl (hc d)
  | beginInit c n m => exact absurd rfl (hb c n m)
  | drop => exact absurd rfl hd
  | initNibble0011 | initNibble0010 => exact execNibble_of_faulted _ _ ha hp
  | _ => exact exec_of_not_admitted rfl hw hadm

/-- An instruction that leads to Ready from another phase is `begin`: the others keep the phase or end Faulted, and
`construct` ends in PoweredUnknown. -/
theorem begin_of_leads_to_ready {i : Instr} {s t : State} (h : exec i s = .next t) (hs : s.phase ≠ .ready)
    (ht : t.phase = .ready) : ∃ columns lines m, i = .beginInit columns lines m := by
  rcases exec_config h with hk | ⟨columns, lines, m, hi, -, -⟩ | ⟨d, -, -, u, -, rfl⟩
  · rcases hk.phase with he | ⟨he, -⟩
    · exact absurd (he.symm.trans ht) hs
    · simp [he] at ht
  · exact ⟨columns, lines, m, hi⟩
  · cases ht

/-- Settles O51: what is not accepted is `exec_of_faulted`; `drop` and `begin` are admitted in every phase. -/
theorem onlyBeginLeadsToReady : Obligations.OnlyBeginLeadsToReady := by
  refine ⟨fun _ _ => exec_of_faulted, fun s ha _ => ⟨?_, fun columns lines m hg => ?_⟩,
    fun _ _ _ => begin_of_leads_to_ready⟩
  · rcases drop_cases s with ⟨hdead, -⟩ | ⟨-, he⟩
    · simp [ha] at hdead
    · exact ⟨_, he, rfl⟩
  · exact ⟨_, exec_begin_granted columns lines m ha hg, rfl, rfl⟩

/-! ### What a LineWriteError leaves behind (R302, R303) -/

/-- An instruction returns a LineWriteError only if its list of transfers is cut at the write that the error names. -/
theorem cut_of_lineWriteError {i : Instr} {s t : State} {l : Line} {v : Level} {k : Nat} (h : exec i s = .next t)
    (hret : t.returns = s.returns ++ [.err (.lineWrite l v k)]) :
    ∃ u done left, Cut s i u done l v ∧ done.length = k ∧ t = u.failedAt done l v left := by
  rcases exec_cases h with ⟨e, he, rfl⟩ | ⟨-, u, ops, hb, rfl⟩ | ⟨-, u, done, l', v', left, hc, rfl⟩ | ⟨rfl, -, rfl⟩ |
    ⟨d, rfl, -, rfl⟩ | ⟨d, pre, l', id, post, rfl, -, rfl⟩
  · obtain rfl : e = .lineWrite l v k := by simpa using hret
    cases he
  · simp [hb.same.returns] at hret
  · simp only [State.failedAt_returns, hc.same.returns, List.append_cancel_left_eq, List.cons.injEq, Result.err.injEq,
      Error.lineWrite.injEq, and_true] at hret
    obtain ⟨rfl, rfl, hlen⟩ := hret
    exact ⟨u, done, left, hc, hlen, rfl⟩
  all_goals simp at hret

/-- Every line but the refused one is at the level last driven on it, or as it was if it was not driven (R33, R303). -/
theorem failedAt_levels_lastWrite (u : State) (done : List BusOp) {l l' : Line} (hl : l' ≠ l) (v left : Level) :
    (lastWrite l' (done.map BusOp.event) = none ∧ (u.failedAt done l v left).levels.get l' = u.levels.get l') ∨
    ∃ a, lastWrite l' (done.map BusOp.event) = some (.w l' a) ∧ (u.failedAt done l v left).levels.get l' = a := by
  rw [State.failedAt_levels, Levels.get_set_other _ hl]
  exact lastWrite_events l' done u.levels

section BeginFlags
variable {s0 u : State} {before seg : List BusOp} {k : Nat}

/-- The display flags at event `k` of `begin`, in its segment `seg`: written once steps 1 to 3 are over (R206). -/
theorem BeginSegment.displayFlags (h : BeginSegment s0 u before seg) (hlo : before.length ≤ k)
    (hhi : k < (before ++ seg).length) :
    if k < (beginOpsFunction s0).length
      then u.displayOn = s0.displayOn ∧ u.cursorOn = s0.cursorOn ∧ u.blinkOn = s0.blinkOn
      else u.displayOn = true ∧ u.cursorOn = false ∧ u.blinkOn = false := by
  cases h with
  | function =>
    rw [List.nil_append] at hhi
    rw [if_pos hhi]
    exact ⟨rfl, rfl, rfl⟩
  | display =>
    rw [if_neg (by omega)]
    exact ⟨rfl, rfl, rfl⟩
  | entry =>
    rw [List.length_append] at hlo
    rw [if_neg (by omega)]
    exact ⟨rfl, rfl, rfl⟩

/-- The entry flags at event `k` of `begin`: written once steps 4a and 4b are over too (R208). -/
theorem BeginSegment.entryFlags (h : BeginSegment s0 u before seg) (hlo : before.length ≤ k)
    (hhi : k < (before ++ seg).length) :
    if k < (beginOpsFunction s0 ++ beginOpsDisplay s0).length
      then u.entryLtr = s0.entryLtr ∧ u.entryShift = s0.entryShift
      else u.entryLtr = true ∧ u.entryShift = false := by
  cases h with
  | function =>
    rw [List.nil_append] at hhi
    rw [if_pos (by rw [List.length_append]; omega)]
    exact ⟨rfl, rfl⟩
  | display =>
    rw [if_pos hhi]
    exact ⟨rfl, rfl⟩
  | entry =>
    rw [if_neg (by omega)]
    exact ⟨rfl, rfl⟩

end BeginFlags

/-- A `begin` is cut in one of its segments, at an event within it. -/
theorem Cut.beginSegment {columns lines : Nat} {m : Matrix} {s u : State} {done : List BusOp} {l : Line} {v : Level}
    (h : Cut s (.beginInit columns lines m) u done l v) :
    ∃ before seg, BeginSegment (initStep0 columns lines m s) u before seg ∧ before.length ≤ done.length ∧
      done.length < (before ++ seg).length := by
  cases h with
  | request _ hr => cases hr
  | begin _ _ _ s0 _ before seg done _ _ rest h0 hs hseg =>
    subst h0
    exact ⟨before, seg, hs, by simp, by simp [hseg]⟩

/-- Settles O46: the events, the levels and the phase are those of `failedAt`, the fields those written before the cut:
what `flagWrite` says, or those of the segment of `begin`. -/
theorem lineWriteErrorIsPrecise : Obligations.LineWriteErrorIsPrecise := by
  intro i s t l v k _ h hret
  obtain ⟨u, done, left, hc, rfl, rfl⟩ := cut_of_lineWriteError h hret
  refine ⟨rfl, rfl, ⟨done.map BusOp.event, ?_, List.length_map _, wBang_not_mem_events done, fun l' hl => ?_⟩,
    fun hb => ?_, ?_⟩
  · rw [State.failedAt_trace, hc.same.trace]
  · rw [← hc.same.levels]
    rcases failedAt_levels_lastWrite u done hl v left with ⟨hn, hlevel⟩ | ⟨a, hs, hlevel⟩
    · rw [hn]
      exact hlevel
    · rw [hs]
      exact hlevel
  · rcases hc.begin_or_flagWrite with ⟨columns, lines, m, hi, -⟩ | rfl
    · exact absurd hi (hb columns lines m)
    · simp
  · rintro columns lines m rfl
    obtain ⟨before, seg, hs, hlo, hhi⟩ := hc.beginSegment
    have hcfg := hs.configuredBy
    refine ⟨hcfg.failedAt.lineCount, hcfg.failedAt.matrix, hcfg.failedAt.rowOffsets, ?_, ?_⟩
    · simpa only [State.failedAt_displayOn, State.failedAt_cursorOn, State.failedAt_blinkOn, initStep0_displayOn,
        initStep0_cursorOn, initStep0_blinkOn] using hs.displayFlags hlo hhi
    · simpa only [State.failedAt_entryLtr, State.failedAt_entryShift, initStep0_entryLtr, initStep0_entryShift] using
        hs.entryFlags hlo hhi

end Sys2Proof.Machine
end

section
/-! PROOFS. Reset, construction and teardown (70_reset_and_hazards.md, sections 1 and 2). `construct` as its legality check
(R341) and then its line requests (R340, R342), with the state each way leaves; `drop` (R343); and the levels that a
granted `begin` leaves (R346). -/

namespace Sys2Proof.Machine

/-- Settles O12: the fields by definition; the shadow is all Low. -/
theorem resetHoldsTheDefaults : Obligations.ResetHoldsTheDefaults :=
  ⟨rfl, rfl, rfl, rfl, rfl, rfl, rfl, rfl, rfl, rfl, rfl, rfl, Levels.get_allLow⟩

/-! ### The legality check (R341) -/

theorem exec_construct_of_fault {d : Binding} {c : BindingFault} (hc : bindingFault d = some c) (s : State) :
    exec (.construct d) s = .next (s.respond (.err (.lineBinding c))) := by
  rw [exec, execConstruct, hc]
  rfl

/-- A property of the four low data lines is one of each. -/
theorem forall_lowLines {P : Fin 8 → Prop} : (∀ k : Fin 8, k.val < 4 → P k) ↔ P 0 ∧ P 1 ∧ P 2 ∧ P 3 := by
  simp [Fin.forall_fin_succ]

/-- A property of the four high data lines is one of each. -/
theorem forall_highLines {P : Fin 8 → Prop} : (∀ k : Fin 8, 4 ≤ k.val → P k) ↔ P 4 ∧ P 5 ∧ P 6 ∧ P 7 := by
  simp [Fin.forall_fin_succ]

theorem lowNibbleBound_iff (d : Binding) :
    lowNibbleBound d = true ↔ ∀ k : Fin 8, k.val < 4 → d.db.get k ≠ none := by
  rw [forall_lowLines]
  simp only [lowNibbleBound, Bool.and_eq_true, Option.isSome_iff_ne_none, and_assoc]

theorem lowNibbleAbsent_iff (d : Binding) :
    lowNibbleAbsent d = true ↔ ∀ k : Fin 8, k.val < 4 → d.db.get k = none := by
  rw [forall_lowLines]
  simp only [lowNibbleAbsent, Bool.and_eq_true, Option.isNone_iff_eq_none, and_assoc]

section Checks
variable {d : Binding}

theorem bindingFault_of_rs_missing (hrs : d.rs = none) : bindingFault d = some .rsMissing := by
  simp [bindingFault, hrs]

theorem bindingFault_of_e_missing (hrs : d.rs ≠ none) (he : d.e = none) : bindingFault d = some .eMissing := by
  simp [bindingFault, hrs, he]

/-- Of the missing lines among DB4..DB7 the lowest is named (log 16). -/
theorem bindingFault_of_db_missing (hrs : d.rs ≠ none) (he : d.e ≠ none)
    (hdb : ∃ k : Fin 8, 4 ≤ k.val ∧ d.db.get k = none) :
    ∃ k : Fin 8, 4 ≤ k.val ∧ d.db.get k = none ∧ bindingFault d = some (.dbMissing k) := by
  by_cases h4 : d.db.get 4 = none
  · exact ⟨4, by decide, h4, by simp [bindingFault, hrs, he, h4]⟩
  by_cases h5 : d.db.get 5 = none
  · exact ⟨5, by decide, h5, by simp [bindingFault, hrs, he, h4, h5]⟩
  by_cases h6 : d.db.get 6 = none
  · exact ⟨6, by decide, h6, by simp [bindingFault, hrs, he, h4, h5, h6]⟩
  by_cases h7 : d.db.get 7 = none
  · exact ⟨7, by decide, h7, by simp [bindingFault, hrs, he, h4, h5, h6, h7]⟩
  obtain ⟨k, hk, hn⟩ := hdb
  exact absurd hn (forall_highLines (P := fun k => d.db.get k ≠ none) |>.mpr ⟨h4, h5, h6, h7⟩ k hk)

/-- With the required lines present, what is left are the checks of DB0..DB3 and of repeated line ids. -/
theorem bindingFault_of_required (hrs : d.rs ≠ none) (he : d.e ≠ none)
    (hdb : ∀ k : Fin 8, 4 ≤ k.val → d.db.get k ≠ none) :
    bindingFault d = if lowNibbleBound d = true ∨ lowNibbleAbsent d = true
      then (firstRepeated (bindingIds d)).map .duplicateLineId else some .partialLowNibble := by
  obtain ⟨h4, h5, h6, h7⟩ := forall_highLines.mp hdb
  cases hb : lowNibbleBound d <;> cases ha : lowNibbleAbsent d <;>
    simp [bindingFault, hrs, he, h4, h5, h6, h7, hb, ha]

/-- With DB0..DB3 all present or all absent too, only a repeated line id is at fault. -/
theorem bindingFault_of_whole_nibble (hrs : d.rs ≠ none) (he : d.e ≠ none)
    (hdb : ∀ k : Fin 8, 4 ≤ k.val → d.db.get k ≠ none)
    (hlow : (∀ k : Fin 8, k.val < 4 → d.db.get k = none) ∨ ∀ k : Fin 8, k.val < 4 → d.db.get k ≠ none) :
    bindingFault d = (firstRepeated (bindingIds d)).map .duplicateLineId := by
  rw [← lowNibbleAbsent_iff, ← lowNibbleBound_iff] at hlow
  rw [bindingFault_of_required hrs he hdb, if_pos hlow.symm]

end Checks

/-- Settles O14: a clause for each branch of `bindingFault`. -/
theorem constructChecksTheBindingInOrder : Obligations.ConstructChecksTheBindingInOrder := by
  refine fun d s => ⟨fun hrs => ?_, fun hrs he => ?_, fun hrs he hdb => ?_, fun hrs he hdb habsent hbound => ?_,
    fun hrs he hdb hlow hdup => ?_, fun hrs he hdb hlow hnodup => ?_, fun c => rfl⟩
  · exact exec_construct_of_fault (bindingFault_of_rs_missing hrs) s
  · exact exec_construct_of_fault (bindingFault_of_e_missing hrs he) s
  · obtain ⟨k, hk, hn, hfault⟩ := bindingFault_of_db_missing hrs he hdb
    exact ⟨k, hk, hn, exec_construct_of_fault hfault s⟩
  · refine exec_construct_of_fault ((bindingFault_of_required hrs he hdb).trans (if_neg ?_)) s
    rw [lowNibbleBound_iff, lowNibbleAbsent_iff]
    push Not
    exact ⟨habsent, hbound⟩
  · have hfault := bindingFault_of_whole_nibble hrs he hdb hlow
    cases hid : firstRepeated (bindingIds d) with
    | none => exact absurd ((firstRepeated_eq_none _).mp hid) hdup
    | some id =>
      rw [hid] at hfault
      exact ⟨id, firstRepeated_count _ id hid, exec_construct_of_fault hfault s⟩
  · rw [bindingFault_of_whole_nibble hrs he hdb hlow, (firstRepeated_eq_none _).mpr hnodup]
    rfl

/-! ### The line requests (R340, R342) -/

/-- A legal descriptor is served by the requests of its lines and then, if all are granted, the new engine. -/
theorem exec_construct_of_legal {d : Binding} (hd : bindingFault d = none) (s : State) :
    exec (.construct d) s = .next ((requestAll s.takenIds (bindingLines d) [] (s.setPos 0)).andThen
      fun s => .go (s.install d)).close := by
  rw [exec, execConstruct, hd]
  rfl

theorem exec_construct_granted {d : Binding} {s : State} (hd : bindingFault d = none)
    (hfree : ∀ p ∈ bindingLines d, p.2 ∉ s.takenIds) (hg : s.grants (bindingLines d).length) :
    exec (.construct d) s =
      .next (((((s.setPos 0).requested (bindingLines d)).install d).setPos 0).respond .ok) := by
  rw [exec_construct_of_legal hd, requestAll_granted _ _ _ (s.setPos 0) hfree (grants_congr rfl rfl hg)]
  rfl

/-- The bound lines are the present fields of the descriptor (R340). -/
theorem boundOf_eq_filterMap : ∀ fields : List (Line × Option LineId),
    boundOf fields = fields.filterMap fun p => p.2.map fun id => (p.1, id)
  | [] => rfl
  | (l, some id) :: rest => by simp [boundOf, boundOf_eq_filterMap rest]
  | (l, none) :: rest => by simp [boundOf, boundOf_eq_filterMap rest]

theorem bindingWidth_eq (d : Binding) : bindingWidth d =
    if (d.db.get 0).isSome ∧ (d.db.get 1).isSome ∧ (d.db.get 2).isSome ∧ (d.db.get 3).isSome then .w8 else .w4 := by
  simp only [bindingWidth, lowNibbleBound, Bool.and_eq_true, and_assoc]

/-- Settles O13: the requests of the lines and then `State.install`; an idle engine stays as it is. -/
theorem constructGivesTheResetState : Obligations.ConstructGivesTheResetState := by
  refine ⟨fun d s hd hids hg => ?_, fun d => ⟨boundOf_eq_filterMap _, rfl⟩, idleEngineStaysPut⟩
  have hfree : ∀ p ∈ bindingLines d, p.2 ∉ s.takenIds := fun p hp => hids p.2 (List.mem_map_of_mem hp)
  exact ⟨_, exec_construct_granted hd hfree hg, rfl, rfl, bindingWidth_eq d, rfl, rfl, rfl, rfl, rfl, rfl, rfl, rfl, rfl,
    rfl, fun p _ => Levels.get_allLow p.1, rfl, rfl, rfl, rfl⟩

/-- Settles O15: the requests stop at the refused line, and the lines held are released from the newest on. -/
theorem constructFailureReleasesInReverse : Obligations.ConstructFailureReleasesInReverse := by
  intro d s pre post l id hd hlines hfree hg href
  have hrequests := requestAll_refused s.takenIds l id post pre [] (s.setPos 0) hfree (grants_congr rfl rfl hg) href
  refine ⟨_, exec_construct_of_legal hd s, ?_⟩
  rw [hlines, hrequests, Flow.raised_andThen, Flow.close, releaseAll_eq]
  apply State.ext_fields <;> simp [State.requested]

/-! ### Teardown (R343) -/

/-- Settles O17: the two ways of `drop_cases`. -/
theorem dropReleasesEveryLine : Obligations.DropReleasesEveryLine := by
  intro s
  rcases drop_cases s with ⟨ha, he⟩ | ⟨ha, he⟩
  · exact ⟨by simp [ha], fun _ => he⟩
  · exact ⟨fun _ => ⟨_, he, rfl⟩, by simp [ha]⟩

/-! ### The levels that `begin` leaves (R346) -/

section Levels
variable (hasRw : Bool) (b : Byte) (n : Nibble) (rs : Level) (v : Levels)

/-- A SEND on eight lines leaves its byte on them (R161). -/
theorem driven_send_w8_db (k : Fin 8) :
    (driven (sendOps .w8 hasRw b rs) v).get (.db k) = lvl (b.getLsbD k.val) := by
  simp only [sendOps, byte8Ops, driven, driven_append, driven_pulse, dataWrite, Levels.set]
  match k with
  | 0 | 1 | 2 | 3 | 4 | 5 | 6 | 7 => rfl

/-- A NIB leaves its nibble on DB4..DB7 (R162). -/
theorem driven_nib_db : driven (nibOps n) v = { v with
    e := .low
    db := { v.db with
      d4 := lvl (n.getLsbD 0), d5 := lvl (n.getLsbD 1), d6 := lvl (n.getLsbD 2), d7 := lvl (n.getLsbD 3) } } := by
  simp only [nibOps, driven, driven_append, driven_pulse, dataWrite, Levels.set, Data8.set]

/-- A SEND on four lines leaves its low nibble on DB4..DB7 (R163). -/
theorem driven_send_w4_highLines :
    (driven (sendOps .w4 hasRw b rs) v).get (.db 4) = lvl (b.getLsbD 0) ∧
    (driven (sendOps .w4 hasRw b rs) v).get (.db 5) = lvl (b.getLsbD 1) ∧
    (driven (sendOps .w4 hasRw b rs) v).get (.db 6) = lvl (b.getLsbD 2) ∧
    (driven (sendOps .w4 hasRw b rs) v).get (.db 7) = lvl (b.getLsbD 3) := by
  simp [sendOps, driven, driven_append, driven_nib_db, Levels.get, Data8.get, lowNibble]

end Levels

/-- The transfers of `begin` in W4 drive none of DB0..DB3, which are not bound (R23, R162). -/
theorem beginOps_w4_lowLines {s : State} (hw : s.busWidth = .w4) {k : Fin 8} (hk : k.val < 4) (a : Level) :
    BusOp.write (.db k) a ∉ beginOps s := by
  have hne : k ≠ 4 ∧ k ≠ 5 ∧ k ≠ 6 ∧ k ≠ 7 := by
    refine ⟨?_, ?_, ?_, ?_⟩ <;> rintro rfl <;> simp at hk
  simp [beginOps_w4 hw, hw, State.sendOps, sendOps, forcedIdleOps, rwLowOps, nibOps, pulseOps, dataWrite, hne]

/-- `begin` leaves RW alone where it is not bound, and Low where it is (R346). -/
theorem driven_begin_rw (s : State) (v : Levels) : (driven (beginOps s) v).get .rw =
    if s.hasRw then .low else v.get .rw := by
  cases hr : s.hasRw with
  | true =>
    rw [driven_begin, State.sendOps, hr]
    exact driven_send_rw ..
  | false =>
    refine driven_get_of_not_written fun a ha => ?_
    simpa [hr] using ((transfers_begin s).rw_writes a ha).2

/-- The data lines after `begin` in W4: the low nibble of EntryModeSet 0x06 on DB4..DB7 (R208, R346). -/
theorem driven_begin_w4_db {s : State} (hw : s.busWidth = .w4) (v : Levels) :
    (driven (beginOps s) v).get (.db 4) = .low ∧ (driven (beginOps s) v).get (.db 5) = .high ∧
    (driven (beginOps s) v).get (.db 6) = .high ∧ (driven (beginOps s) v).get (.db 7) = .low ∧
    ∀ k : Fin 8, k.val < 4 → (driven (beginOps s) v).get (.db k) = v.get (.db k) := by
  obtain ⟨h4, h5, h6, h7⟩ := driven_send_w4_highLines s.hasRw 0x06#8 .low
    (driven (beginOpsFunction s ++ beginOpsDisplay s) v)
  refine ⟨?_, ?_, ?_, ?_, fun k hk => driven_get_of_not_written (beginOps_w4_lowLines hw hk)⟩
  all_goals rw [driven_begin, State.sendOps, hw]
  · exact h4
  · exact h5
  · exact h6
  · exact h7

/-- The data lines after `begin` in W8: EntryModeSet 0x06 on DB0..DB7 (R208, R346). -/
theorem driven_begin_w8_db {s : State} (hw : s.busWidth = .w8) (v : Levels) (k : Fin 8) :
    (driven (beginOps s) v).get (.db k) = lvl ((0x06#8).getLsbD k.val) := by
  rw [driven_begin, State.sendOps, hw, driven_send_w8_db]

/-- E and RS after `begin`: those of its last SEND (R208). -/
theorem driven_begin_e_rs (s : State) (v : Levels) :
    (driven (beginOps s) v).get .e = .low ∧ (driven (beginOps s) v).get .rs = .low := by
  rw [driven_begin]
  exact ⟨driven_send_e .., driven_send_rs ..⟩

theorem driven_begin_db4_db7 (s : State) (v : Levels) :
    (driven (beginOps s) v).get (.db 4) = .low ∧ (driven (beginOps s) v).get (.db 7) = .low := by
  cases hw : s.busWidth with
  | w4 =>
    obtain ⟨h4, -, -, h7, -⟩ := driven_begin_w4_db hw v
    exact ⟨h4, h7⟩
  | w8 => exact ⟨driven_begin_w8_db hw v 4, driven_begin_w8_db hw v 7⟩

/-- Settles O26: the fields are those of `beginDone`, the levels those of the last SEND, EntryModeSet 0x06, and of what
no transfer of `begin` drives. -/
theorem beginLeavesTheEngineReady : Obligations.BeginLeavesTheEngineReady := by
  intro columns lines m s ha hg
  have hexec := exec_begin_granted columns lines m ha hg
  have hcfg := begin_configures ha hexec
  have hmatrix : matrixOfRequest m (linesOfRequest lines) = if m = .m5x10 ∧ ¬ lines > 1 then .m5x10 else .m5x8 := by
    by_cases hl : lines > 1 <;> simp [matrixOfRequest, linesOfRequest, hl]
  obtain ⟨he, hrs⟩ := driven_begin_e_rs (initStep0 columns lines m s) s.levels
  obtain ⟨h4, h7⟩ := driven_begin_db4_db7 (initStep0 columns lines m s) s.levels
  have hrw := driven_begin_rw (initStep0 columns lines m s) s.levels
  have hsame : SameLines s (beginDone (initStep0 columns lines m s)) := (Body.begin columns lines m _ rfl).same
  refine ⟨_, hexec, rfl, hcfg.lineCount, hcfg.matrix.trans (congrArg some hmatrix), hcfg.rowOffsets,
    rfl, rfl, rfl, rfl, rfl, ?_⟩
  rw [State.completed_levels, State.completed_trace, State.completed_returns, State.completed_pins,
    State.completed_busWidth, State.completed_hasRw, State.completed_alive, State.completed_owned, State.completed_port,
    hsame.levels, hsame.trace, hsame.returns, hsame.pins, hsame.busWidth, hsame.hasRw, hsame.alive, hsame.owned,
    hsame.port]
  refine ⟨he, hrs, fun hr => hrw.trans (if_pos hr), fun hr => hrw.trans (by simp [hr]), h4, h7,
    fun hw => ?_, fun hw => ?_, rfl, rfl, rfl, rfl, rfl, ha, rfl, rfl⟩
  · obtain ⟨-, h5, h6, -, hlow⟩ := driven_begin_w4_db (s := initStep0 columns lines m s) hw s.levels
    exact ⟨h5, h6, hlow⟩
  · have hdb := driven_begin_w8_db (s := initStep0 columns lines m s) hw s.levels
    exact ⟨hdb 1, hdb 2, hdb 0, hdb 3, hdb 5, hdb 6⟩

end Sys2Proof.Machine
end

section
/-! PROOFS. What every run of a request keeps, failed runs included (70_reset_and_hazards.md, section 3): the pulse margin
(R350), and FunctionSet sent by `begin` only (R355). Then the time each request asks for (R361). -/

namespace Sys2Proof.Machine

/-- Where an instruction drives a line at all, it performs its transfers, whole or up to a refused write. -/
theorem exec_events {i : Instr} {s t : State} (h : exec i s = .next t) :
    ∃ evs, t.trace = s.trace ++ evs ∧
      ((∀ l a, Event.w l a ∉ evs) ∨
        (∃ u ops, Body s i u ops ∧ evs = ops.map BusOp.event) ∨
        ∃ u done l v, Cut s i u done l v ∧ evs = done.map BusOp.event ++ [.wBang l v]) := by
  rcases exec_cases h with ⟨e, -, rfl⟩ | ⟨-, u, ops, hb, rfl⟩ | ⟨-, u, done, l, v, left, hc, rfl⟩ | ⟨rfl, -, rfl⟩ |
    ⟨d, rfl, -, rfl⟩ | ⟨d, pre, l, id, post, rfl, -, rfl⟩
  · exact ⟨[], by simp, .inl (by simp)⟩
  · exact ⟨_, by rw [State.completed_trace, hb.same.trace], .inr (.inl ⟨u, ops, hb, rfl⟩)⟩
  · exact ⟨_, by rw [State.failedAt_trace, hc.same.trace, List.append_assoc], .inr (.inr ⟨u, done, l, v, hc, rfl⟩)⟩
  · exact ⟨_, rfl, .inl (by simp)⟩
  · exact ⟨_, rfl, .inl (by simp)⟩
  · exact ⟨pre.map (fun p => .q p.1) ++ [.qBang l] ++ pre.reverse.map (fun p => .x p.1), by simp, .inl (by simp)⟩

/-! ### The pulse margin (R350) -/

/-- Only a write of E concerns the pulse margin. -/
theorem marginKept_write_of_ne {l : Line} (hl : l ≠ .e) (up : Bool) (a : Level) (rest : List Event) :
    marginKept up (.w l a :: rest) = marginKept up rest := by
  cases l with
  | e => exact absurd rfl hl
  | rs | rw | db => rfl

/-- In a list of transfers each pulse brings its margin, so the margin is kept if it is kept after the list. -/
theorem Transfers.marginKept_append {hasRw : Bool} {ops : List BusOp} (h : Transfers hasRw ops) (rest : List Event) :
    marginKept false (ops.map BusOp.event ++ rest) = marginKept false rest := by
  induction h generalizing rest with
  | nil => rfl
  | append _ _ iha ihb => rw [List.map_append, List.append_assoc, iha, ihb]
  | sleep d => rfl
  | rs v | rw | data k b => exact marginKept_write_of_ne (by simp) ..
  | eLow | pulse => rfl

theorem Transfers.marginKept_events {hasRw : Bool} {ops : List BusOp} (h : Transfers hasRw ops) :
    marginKept false (ops.map BusOp.event) = true := by
  rw [← List.append_nil (ops.map _), h.marginKept_append, marginKept]

theorem marginKept_of_no_write {evs : List Event} (h : ∀ l a, Event.w l a ∉ evs) (up : Bool) :
    marginKept up evs = true := by
  induction evs with
  | nil => rfl
  | cons e rest ih =>
    have ih := ih fun l a hm => h l a (List.mem_cons_of_mem _ hm)
    cases e with
    | w l a => exact absurd List.mem_cons_self (h l a)
    | q | qBang | x | wBang | s => exact ih

/-- A margin that a write follows is there without the write. -/
theorem marginNext_of_write {done rest : List Event} {l : Line} {a : Level} (evs : List Event)
    (h : marginNext (done ++ .w l a :: rest) = true) : marginNext (done ++ evs) = true := by
  cases done with
  | nil => cases h
  | cons e done => cases e <;> exact h

/-- A trace cut at a write that is refused keeps the margin: a write is no part of a pulse's margin. -/
theorem marginKept_of_cut {rest : List Event} {l : Line} {a : Level} : ∀ {done : List Event} {up : Bool},
    marginKept up (done ++ .w l a :: rest) = true → marginKept up (done ++ [.wBang l a]) = true
  | [], _, _ => rfl
  | .s _ :: done, up, h | .q _ :: done, up, h | .qBang _ :: done, up, h | .x _ :: done, up, h
  | .wBang _ _ :: done, up, h => marginKept_of_cut (done := done) (up := up) h
  | .w .rs _ :: done, up, h | .w .rw _ :: done, up, h | .w (.db _) _ :: done, up, h =>
    marginKept_of_cut (done := done) (up := up) h
  | .w .e .high :: done, _, h => marginKept_of_cut (done := done) (up := true) h
  | .w .e .low :: done, up, h => by
    simp only [List.cons_append, marginKept, Bool.and_eq_true, Bool.or_eq_true] at h ⊢
    exact ⟨h.1.imp_right (marginNext_of_write _), marginKept_of_cut h.2⟩

/-- Settles O57: the transfers of an instruction keep the margin, up to a refused write too; the rest writes no line. -/
theorem pulseMarginIsAlwaysKept : Obligations.PulseMarginIsAlwaysKept := by
  intro i s t h
  obtain ⟨evs, ht, hevs⟩ := exec_events h
  refine ⟨evs, ht, ?_⟩
  rcases hevs with hnone | ⟨u, ops, hb, rfl⟩ | ⟨u, done, l, v, hc, rfl⟩
  · exact marginKept_of_no_write hnone false
  · exact hb.transfers.marginKept_events
  · obtain ⟨rest, hops⟩ := hc.transfers
    have hwhole := hops.marginKept_events
    rw [List.map_append] at hwhole
    exact marginKept_of_cut hwhole

/-! ### FunctionSet (R355) -/

/-- The latches of a trace are those of its first part and then those of the rest. -/
theorem latchesFrom_append : ∀ (a : List Event) (v : Levels) (p : Option Latch),
    ∃ v' p', ∀ b, latchesFrom v p (a ++ b) = latchesFrom v p a ++ latchesFrom v' p' b
  | [], v, p => ⟨v, p, fun _ => rfl⟩
  | .s _ :: a, v, p | .q _ :: a, v, p | .qBang _ :: a, v, p | .x _ :: a, v, p | .wBang _ _ :: a, v, p =>
    latchesFrom_append a v p
  | .w .rs l :: a, v, p => by simpa using latchesFrom_append a (v.set .rs l) p
  | .w .rw l :: a, v, p => by simpa using latchesFrom_append a (v.set .rw l) p
  | .w (.db k) l :: a, v, p => by simpa using latchesFrom_append a (v.set (.db k) l) p
  | .w .e .high :: a, v, none => latchesFrom_append a (v.set .e .high) (some ⟨v.rs, v.db⟩)
  | .w .e .high :: a, v, some k => latchesFrom_append a (v.set .e .high) (some k)
  | .w .e .low :: a, v, none => latchesFrom_append a (v.set .e .low) none
  | .w .e .low :: a, v, some k => by simpa using latchesFrom_append a (v.set .e .low) none

/-- A refused write at the end of a trace latches nothing. -/
theorem latches_append_wBang (v : Levels) (done : List Event) (l : Line) (a : Level) :
    latches v (done ++ [.wBang l a]) = latches v done := by
  obtain ⟨v', p', happ⟩ := latchesFrom_append done v none
  rw [latches, latches, happ, latchesFrom_wBang, latchesFrom_nil, List.append_nil]

theorem latches_of_no_write {evs : List Event} (h : ∀ l a, Event.w l a ∉ evs) (v : Levels) : latches v evs = [] := by
  induction evs with
  | nil => rfl
  | cons e rest ih =>
    have ih := ih fun l a hm => h l a (List.mem_cons_of_mem _ hm)
    cases e with
    | w l a => exact absurd List.mem_cons_self (h l a)
    | q | qBang | x | wBang | s => exact ih

/-- A call but `begin` delivers nothing but bus words of its rule, however it ends. -/
theorem delivered_subset_busWords {i : Instr} {s t : State} (he : encode i = none)
    (hb : ∀ c n m, i ≠ .beginInit c n m) (h : exec i s = .next t) :
    ∃ evs, t.trace = s.trace ++ evs ∧
      delivered s.busWidth (latches s.levels evs) ⊆ busWords i (flagWrite i s) := by
  obtain ⟨evs, ht, hevs⟩ := exec_events h
  refine ⟨evs, ht, ?_⟩
  have hwhole := delivered_requestOps i (flagWrite i s) s.levels
  rw [flagWrite_busWidth] at hwhole
  rcases hevs with hnone | ⟨u, ops, hbody, rfl⟩ | ⟨u, done, l, v, hc, rfl⟩
  · simp [latches_of_no_write hnone]
  · cases hbody with
    | request => exact hwhole ▸ List.Subset.refl _
    | nibble0011 | nibble0010 => cases he
    | begin c n m => exact absurd rfl (hb c n m)
  · cases hc with
    | request _ _ _ _ _ _ _ _ rest hops =>
      rw [hops, List.map_append] at hwhole
      rw [latches_append_wBang, ← hwhole]
      exact (delivered_prefix _ (latchesFrom_prefix _ _ _ _)).subset
    | nibble0011 | nibble0010 => cases he
    | begin c n m => exact absurd rfl (hb c n m)

/-- The byte of a bus word with RS = 0 has the opcode of its instruction as its highest set bit (R95). -/
theorem log2_wordByte {i : Instr} {k : Nat} (hk : opcodeBit i = some k) : (wordByte i).toNat.log2 = k := by
  obtain ⟨w, hw⟩ : ∃ w, encode i = some (.word w) := by
    cases i with
    | clearDisplay | returnHome | entryModeSet | displayControl | cursorOrDisplayShift | functionSet | setCgramAddress
    | setDdramAddress => exact ⟨_, rfl⟩
    | _ => cases hk
  have hd : decodeWord w = .ok i := decode_of_encode hw
  have hrs : w.getLsbD 8 = false := by
    by_contra hrs
    rw [decodeWord, if_pos (by simpa using hrs)] at hd
    cases hd
    cases hk
  have hnat : (wordByte i).toNat = w.toNat := by
    have hlt : w.toNat < 2 ^ 8 := BitVec.toNat_lt_of_msb_false ((BitVec.msb_eq_getLsbD_last w).trans hrs)
    rw [wordByte_of_encode hw, BitVec.toNat_setWidth, Nat.mod_eq_of_lt hlt]
  rw [hnat]
  exact Option.some_inj.mp ((opcodeBit_of_decodeWord hrs hd).symm.trans hk)

/-- The instructions of which a call sends the byte with RS = 0 have another opcode bit than FunctionSet; the raw `command`
and `begin` aside (R355, R356). -/
theorem busWords_low {i : Instr} {s : State} {b : Byte} (he : encode i = none) (hc : ∀ c, i ≠ .command c)
    (hm : (.low, b) ∈ busWords i s) : ∃ j k, b = wordByte j ∧ opcodeBit j = some k ∧ k ≠ 5 := by
  cases i with
  | command c => exact absurd rfl (hc c)
  | clear =>
    obtain rfl : b = clrByte := by simpa [busWords] using hm
    exact ⟨.clearDisplay, 0, rfl, rfl, by decide⟩
  | home =>
    obtain rfl : b = homeByte := by simpa [busWords] using hm
    exact ⟨.returnHome 0#1, 1, rfl, rfl, by decide⟩
  | leftToRight | rightToLeft | autoscroll | noAutoscroll =>
    obtain rfl : b = s.em := by simpa [busWords] using hm
    exact ⟨_, 2, s.em_eq_wordByte, rfl, by decide⟩
  | display | noDisplay | cursor | noCursor | blink | noBlink =>
    obtain rfl : b = s.dc := by simpa [busWords] using hm
    exact ⟨_, 3, s.dc_eq_wordByte, rfl, by decide⟩
  | scrollDisplayLeft =>
    obtain rfl : b = shByte .display .left := by simpa [busWords] using hm
    exact ⟨_, 4, shByte_eq_wordByte _ _, rfl, by decide⟩
  | scrollDisplayRight =>
    obtain rfl : b = shByte .display .right := by simpa [busWords] using hm
    exact ⟨_, 4, shByte_eq_wordByte _ _, rfl, by decide⟩
  | createChar slot bitmap =>
    obtain rfl : b = cgByte slot := by simpa [busWords] using hm
    exact ⟨_, 6, cgByte_eq_wordByte slot, rfl, by decide⟩
  | setCursor col row =>
    cases ha : s.cursorAddress col row with
    | none => simp [busWords, ha] at hm
    | some a =>
      obtain rfl : b = ddByte a := by simpa [busWords, ha] using hm
      exact ⟨_, 7, ddByte_eq_wordByte a, rfl, by decide⟩
  | write | print | construct | drop | beginInit => simp [busWords] at hm
  | _ => cases he

/-- Settles O59: what a call delivers is in its list of bus words, and none of these is FunctionSet. -/
theorem noFunctionSetOutsideBegin : Obligations.NoFunctionSetOutsideBegin := by
  intro i s t b he hc hb h
  obtain ⟨evs, ht, hsub⟩ := delivered_subset_busWords he hb h
  refine ⟨evs, ht, fun hm => ?_⟩
  obtain ⟨j, k, rfl, hk, hne⟩ := busWords_low he hc (hsub hm)
  rwa [log2_wordByte hk]

/-! ### Requested times (R361) -/

/-- The sleep of one bus word: a pulse in W8, two in W4 (R164). -/
def sendTime (w : BusWidth) : Nat := if w = .w4 then 204 else 102

/-- The table of R361, the nibble words among it as one pulse: what an instruction that returns Ok sleeps. -/
def requestTime (i : Instr) (w : BusWidth) : Nat :=
  match i with
  | .beginInit _ _ _ => if w = .w4 then 102874 else 57364
  | .construct _ | .drop => 0
  | .initNibble0011 | .initNibble0010 => 102
  | .print text => sendTime w * text.length
  | .createChar _ _ => sendTime w * 9
  | .clear | .home => sendTime w + usClearHome
  | .clearDisplay | .returnHome _ | .entryModeSet _ _ | .displayControl _ _ _ | .cursorOrDisplayShift _ _ _
  | .functionSet _ _ _ _ | .setCgramAddress _ | .setDdramAddress _ | .writeData _ | .command _ | .write _
  | .setCursor _ _ | .display | .noDisplay | .cursor | .noCursor | .blink | .noBlink | .leftToRight | .rightToLeft
  | .autoscroll | .noAutoscroll | .scrollDisplayLeft | .scrollDisplayRight => sendTime w

theorem requestedSleep_sends (s : State) (ws : List (Level × Byte)) :
    requestedSleep ((ws.flatMap fun w => s.sendOps w.2 w.1).map BusOp.event) = sendTime s.busWidth * ws.length := by
  induction ws with
  | nil => rfl
  | cons w ws ih =>
    rw [List.flatMap_cons, List.map_append, requestedSleep_append, ih, State.sendOps, requestedSleep_send,
      List.length_cons, Nat.mul_succ, Nat.add_comm, sendTime]

theorem requestedSleep_requestOps (i : Instr) (s : State) : requestedSleep ((requestOps i s).map BusOp.event) =
    sendTime s.busWidth * (busWords i s).length + requestedSleep ((settleOps i).map BusOp.event) := by
  rw [requestOps, List.map_append, requestedSleep_append, requestedSleep_sends]

/-- The time of a request of the Ready class is that of its bus words and its settle. -/
theorem requestedSleep_request {i : Instr} {s : State} (hr : needsReady i = true) (hw : i.wellFormed = true)
    (hf : fieldsSet i s) :
    requestedSleep ((requestOps i (flagWrite i s)).map BusOp.event) = requestTime i s.busWidth := by
  rw [requestedSleep_requestOps, flagWrite_busWidth]
  cases i with
  | initNibble0011 | initNibble0010 | construct | drop | beginInit => cases hr
  | setCursor col row =>
    obtain ⟨a, ha⟩ := Option.isSome_iff_exists.mp (State.cursorAddress_isSome hf.1 hf.2 col row)
    simp [busWords, flagWrite, ha, settleOps, requestedSleep, requestTime]
  | print text => simp [busWords, settleOps, requestedSleep, requestTime]
  | createChar slot bitmap =>
    have hlen : bitmap.length = 8 := beq_iff_eq.mp hw
    simp [busWords, settleOps, requestedSleep, requestTime, hlen]
  | clear | home => simp [busWords, settleOps, requestedSleep, requestTime, BusOp.event]
  | _ => simp [busWords, settleOps, requestedSleep, requestTime]

theorem Body.requestedSleep_eq {s u : State} {i : Instr} {ops : List BusOp} (h : Body s i u ops) :
    requestedSleep (ops.map BusOp.event) = requestTime i s.busWidth := by
  cases h with
  | request _ hr hw hf => exact requestedSleep_request hr hw hf
  | nibble0011 | nibble0010 => exact requestedSleep_nib _
  | begin columns lines m s0 h0 =>
    subst h0
    rw [requestedSleep_begin, initStep0_busWidth]
    cases s.busWidth <;> rfl

theorem requestedSleep_of_no_sleep {evs : List Event} (h : ∀ d, Event.s d ∉ evs) : requestedSleep evs = 0 := by
  induction evs with
  | nil => rfl
  | cons e rest ih =>
    have ih := ih fun d hm => h d (List.mem_cons_of_mem _ hm)
    cases e with
    | s d => exact absurd List.mem_cons_self (h d)
    | q | qBang | x | w | wBang => exact ih

/-- Everything that returns Ok sleeps the time of the table. -/
theorem exec_requestedSleep {i : Instr} {s t : State} (h : exec i s = .next t)
    (hok : t.returns = s.returns ++ [.ok]) :
    ∃ evs, t.trace = s.trace ++ evs ∧ requestedSleep evs = requestTime i s.busWidth := by
  rcases exec_cases h with ⟨e, -, rfl⟩ | ⟨-, u, ops, hb, rfl⟩ | ⟨-, u, done, l, v, left, hc, rfl⟩ | ⟨rfl, -, rfl⟩ |
    ⟨d, rfl, -, rfl⟩ | ⟨d, pre, l, id, post, rfl, -, rfl⟩
  · simp at hok
  · exact ⟨ops.map BusOp.event, by simp [hb.same.trace], hb.requestedSleep_eq⟩
  · simp [hc.same.returns] at hok
  · exact ⟨_, rfl, requestedSleep_of_no_sleep (by simp)⟩
  · exact ⟨_, rfl, requestedSleep_of_no_sleep (by simp)⟩
  · simp at hok

/-- Settles O60: each row of R361 is the row of `requestTime`. -/
theorem requestedTimes : Obligations.RequestedTimes := by
  intro i s t h hok
  obtain ⟨evs, ht, hsleep⟩ := exec_requestedSleep h hok
  refine ⟨evs, ht, ?_, ?_, ?_, ?_, ?_, ?_⟩ <;> rw [hsleep]
  · rintro c n m rfl
    rfl
  · rintro (⟨b, rfl | rfl⟩ | ⟨c, r, rfl⟩ | hi)
    · rfl
    · rfl
    · rfl
    · simp only [List.mem_cons, List.not_mem_nil, or_false] at hi
      rcases hi with rfl | rfl | rfl | rfl | rfl | rfl | rfl | rfl | rfl | rfl | rfl | rfl <;> rfl
  · rintro (rfl | rfl) <;> cases s.busWidth <;> rfl
  · rintro text rfl
    rfl
  · rintro slot bitmap rfl
    cases s.busWidth <;> rfl
  · rintro (⟨d, rfl⟩ | rfl) <;> rfl

end Sys2Proof.Machine
end

section
/-! PROOFS. The state before any request meets the invariant between requests (10_state.md, sections 2 to 7): a lemma for
each part of the invariant but R27's, which holds for want of a matrix. -/

namespace Sys2Proof.Machine

/-- R34 at reset: every line of the shadow is Low. -/
theorem State.reset_idleLevels : State.reset.idleLevels :=
  fun _ => ⟨Levels.get_allLow .e, fun _ => Levels.get_allLow .rw⟩

/-- R22 to R24 at reset: no line is bound, which is a W4 binding without RW, and no engine is alive to need a legal one. -/
theorem State.reset_bindingOk : State.reset.bindingOk := ⟨rfl, rfl, nofun⟩

/-- R25, R26, R32 at reset: the phase is not Ready, and there are no row offsets to be of another form. -/
theorem State.reset_configured : State.reset.configured := ⟨nofun, nofun⟩

/-- R340, R344 at reset: RS is at Low, as every line is. -/
theorem State.reset_rsLowBeforeBegin : State.reset.rsLowBeforeBegin := fun _ => Levels.get_allLow .rs

/-- R21, R30 at reset: the phase is PoweredUnknown, with no request in progress. -/
theorem State.reset_betweenRequests : State.reset.betweenRequests := ⟨.inl rfl, rfl⟩

/-- Settles O54: part by part; no matrix is set, so R27 asks nothing of the line count. -/
theorem resetMeetsTheInvariant : Obligations.ResetMeetsTheInvariant :=
  ⟨nofun, State.reset_idleLevels, State.reset_bindingOk, State.reset_configured, State.reset_rsLowBeforeBegin,
    State.reset_betweenRequests⟩

end Sys2Proof.Machine
end
